-- ==== Sys2Proof/Word.lean ====
section
/-! DEFINITION. The word types of the register space and of the program space (spec R7, R10, R80). -/

namespace Sys2Proof

/-- A register, a driver register or an immediate: W = 16 bits (R7). -/
abbrev Word := BitVec 16

/-- A DSEQ instruction word: 32 bits (R80). -/
abbrev InstrWord := BitVec 32

/-- A register offset, as the addr field names it: 8 bits, not scaled (R83). -/
abbrev RegOff := BitVec 8

/-- A byte of a program image (R64); no rule observes program bytes. -/
abbrev Byte := BitVec 8

end Sys2Proof
end

