-- ==== Sys2Proof/Config.lean ====
section
/-! DEFINITION. What is fixed for a run: the constants of R5, the types of the OPEN parameters of R6 with the run premise
CLOCKS_OK of R243, and the free values of the model (constants with no body). -/

namespace Sys2Proof

/-- PINC_FSEL, the function-select code of Pin C's timer output: one of 0b01, 0b10, 0b11 (R6, D7). -/
inductive PincFsel where
  /-- 0b01: only the first stage -/
  | sel0Only
  /-- 0b10: only the second stage -/
  | sel1Only
  /-- 0b11: both stages -/
  | both
  deriving DecidableEq, Repr, Inhabited

/-- NEG_CMD_POLICY: the meaning of a negative command at the integer actuation interface (R6, R188). -/
inductive NegCmdPolicy where
  | refuse
  | unsigned
  | cTrunc
  deriving DecidableEq, Repr, Inhabited

/-- The OPEN parameters of R6, and CLOCKS_OK (R243). Every claim about the machine holds for every value of this record. -/
structure Params where
  /-- BASE: the bus address of register offset 0x00 -/
  base : Nat
  /-- PIN_A, PIN_B, PIN_C: the physical pins -/
  pinA : Nat
  pinB : Nat
  pinC : Nat
  /-- ADC_CH_B: the INCH code that selects Pin B's channel -/
  adcChB : BitVec 4
  /-- TSSEL_CODE: the TSSEL code of the pre-configured timer clock -/
  tsselCode : BitVec 2
  pincFsel : PincFsel
  negCmdPolicy : NegCmdPolicy
  /-- CLOCKS_OK: the external clock tree is configured (R243); no register reads or changes it -/
  clocksOk : Bool
  deriving DecidableEq, Repr, Inhabited

/-- The draws of one reset (R51): a value for each component whose reset value is free. -/
structure ResetDraws where
  /-- GPIO_OUT[2:0], a separate draw for each bit -/
  out : BitVec 3
  /-- ADC_CTL2.RES -/
  res : BitVec 2
  /-- ADC_MEM0 -/
  mem0 : Word
  deriving DecidableEq, Repr, Inhabited

namespace Config

/-- ADC_MAX (R5). -/
abbrev adcMax : Word := 4095
/-- SHT code 2, which means SHT_CYCLES = 16 (R7, R154). -/
abbrev shtCode16 : BitVec 4 := 2
/-- The RES code of 12-bit resolution, ADC_BITS (R5, R7). -/
abbrev resCode12 : BitVec 2 := 0b10
/-- The reserved RES code (R35). -/
abbrev resReserved : BitVec 2 := 0b11
/-- MC codes: stop and up (R40). -/
abbrev mcStop : BitVec 2 := 0b00
abbrev mcUp : BitVec 2 := 0b01
/-- OUTMOD codes: constant low and reset/set (R43). -/
abbrev outmodLow : BitVec 3 := 0b000
abbrev outmodResetSet : BitVec 3 := 0b111
/-- PERIOD_INIT, CMP_INIT, DUTY_DIV, CMP_DIV (R5). -/
abbrev periodInit : Word := 1000
abbrev cmpInit : Word := 300
abbrev dutyDiv : Word := 40
abbrev cmpDiv : Word := 10

/-- The parameters of the machine behind State.reset: OPEN, so they have no body (R6; log 6). -/
opaque params : Params

/-- The draws of power-on (R51, R240): free values, so they have no body (log 5). -/
opaque powerOnDraws : ResetDraws

/-- The compare value the integer actuation interface writes for a command above 65535: the spec states none
(DESIGN CHOICE of a free value, log 12). -/
opaque wideCommandCompare : Int → Word

end Config
end Sys2Proof
end

