-- ==== Sys2Proof/Syntax.lean ====
section
/-! DEFINITION. The instructions of the driver sequencer, one constructor per row of the opcode table (R84), and the
driver registers they name (R21). -/

namespace Sys2Proof

/-- The driver registers v0..v3 (R21). -/
inductive VReg where
  | v0
  | v1
  | v2
  | v3
  deriving DecidableEq, Repr

/-- A DSEQ instruction. Operands stand in the assembler's order (R89). -/
inductive Instr where
  /-- WR off, #imm (R101) -/
  | wr (off : RegOff) (imm : Word)
  /-- BIS off, #mask (R102) -/
  | bis (off : RegOff) (mask : Word)
  /-- BIC off, #mask (R103) -/
  | bic (off : RegOff) (mask : Word)
  /-- WRV off, vS (R104) -/
  | wrv (off : RegOff) (src : VReg)
  /-- RD vD, off (R105) -/
  | rd (dst : VReg) (off : RegOff)
  /-- DIVU vD, vS, #divisor (R201) -/
  | divu (dst : VReg) (src : VReg) (divisor : Word)
  /-- POLL off, #mask (R202) -/
  | poll (off : RegOff) (mask : Word)
  /-- JMP #target (R203) -/
  | jmp (target : Word)
  /-- HALT (R204) -/
  | halt
  deriving DecidableEq, Repr

end Sys2Proof
end

