-- ==== Sys2Proof/Machine/State.lean ====
section
/-! DEFINITION. The machine state (R20), the faults and refusals (R221, R222), and the state after reset (R51). -/

namespace Sys2Proof.Machine

/-- The faults (R221): this spec's verdict that a word or an operand is illegal. Raising one is recorded in the status and
stops every agent (R220). All are safe: the run ends, so no claim about its end can be proved (R223). -/
inductive Fault where
  /-- FLT_ILLEGAL_OP (1), raised by the fetch of an illegal word and by DIVU with divisor 0; safe -/
  | illegalOp (pc : Nat) (word : InstrWord)
  /-- FLT_PC_RANGE (2), raised by the fetch at pc ≥ length(prog); safe -/
  | pcRange (pc : Nat)
  /-- FLT_UNWRITTEN_VREG (3), raised by WRV and DIVU when the source register is unwritten; safe -/
  | unwrittenVreg (pc : Nat) (reg : VReg)
  deriving DecidableEq, Repr

/-- The refusals (R222): operations the spec gives no meaning. Raising one is recorded in the status and stops every agent
(R220). All are safe: the run ends, so no claim about its end can be proved (R223). -/
inductive Refusal where
  /-- an instruction without a meaning in this model; raised by exec's refused arms only; safe -/
  | notModelled (mnemonic : String)
  /-- REF_UNMAPPED (16), raised by WR, BIS, BIC, WRV, RD and POLL; safe -/
  | unmapped (pc : Nat) (off : RegOff)
  /-- REF_READONLY_WRITE (17), raised by WR, BIS, BIC and WRV; safe -/
  | readonlyWrite (pc : Nat) (off : RegOff)
  /-- REF_RESERVED_BITS (18), raised by WR, BIS and WRV; safe -/
  | reservedBits (pc : Nat) (off : RegOff) (value : Word)
  /-- REF_FIELD_CODE (19), raised by writes to ADC_CTL2, TMR_CTL and TMR_CCTL1; safe -/
  | fieldCode (pc : Nat) (off : RegOff) (value : Word)
  /-- REF_ADC_BUSY (20), raised by writes to ADC_CTL0..ADC_MCTL0; safe -/
  | adcBusy (pc : Nat) (off : RegOff)
  /-- REF_ADC_CFG_LOCKED (21), raised by writes to ADC_CTL0..ADC_MCTL0; safe -/
  | adcCfgLocked (pc : Nat) (off : RegOff) (value : Word)
  /-- REF_ADC_SC_NO_ENC (22), raised by writes to ADC_CTL0; safe -/
  | adcScNoEnc (pc : Nat) (value : Word)
  /-- REF_PERIOD_BELOW_COUNT (23), raised by writes to TMR_CCR0; safe -/
  | periodBelowCount (pc : Nat) (value : Word) (count : Word)
  /-- REF_SYS_RELOCK (24), raised by writes to SYS_CTL; safe -/
  | sysRelock (pc : Nat) (value : Word)
  /-- REF_NEG_COMMAND (25), raised by the integer actuation interface only; safe -/
  | negCommand (command : Int)
  deriving DecidableEq, Repr

/-- The run status (R26); Faulted and Refused record their code and info (R220). -/
inductive Status where
  | running
  | halted
  | faulted (f : Fault)
  | refused (r : Refusal)
  deriving DecidableEq, Repr

/-- One step of one agent (R8), with the draws it takes. -/
inductive Event where
  /-- the DSEQ executes one instruction (R200) -/
  | dseq
  /-- the ADC's complete step, with its drawn result (R150, R151) -/
  | complete (r : Word)
  /-- the TMR's tick step (R178) -/
  | tick
  /-- the WDT's watchdog reset step, with the draws of that reset (R228, R240) -/
  | watchdog (d : ResetDraws)
  deriving DecidableEq, Repr

/-- The driver registers (R21): each is written, holding a word, or unwritten (`none`, the spec's own state; log 8). -/
structure VRegs where
  v0 : Option Word
  v1 : Option Word
  v2 : Option Word
  v3 : Option Word
  deriving DecidableEq, Repr

/-- The driver sequencer (R21, R23, R26). -/
structure Dseq where
  v : VRegs
  pc : Nat
  status : Status
  deriving DecidableEq, Repr

/-- The pin unit (R29-R32); bit 0 is Pin A, bit 1 Pin B, bit 2 Pin C (R28). -/
structure PinUnit where
  /-- GPIO_OUT -/
  out : BitVec 3
  /-- GPIO_DIR -/
  dir : BitVec 3
  /-- GPIO_SEL0 -/
  sel0 : BitVec 3
  /-- GPIO_SEL1 -/
  sel1 : BitVec 3
  deriving DecidableEq, Repr

/-- The conversion unit (R33-R39). -/
structure ConvUnit where
  /-- ADC_CTL0.ENC -/
  enc : Bool
  /-- ADC_CTL0.ON -/
  on : Bool
  /-- ADC_CTL0.SHT -/
  sht : BitVec 4
  /-- ADC_CTL1.SHP -/
  shp : Bool
  /-- ADC_CTL2.RES -/
  res : BitVec 2
  /-- ADC_MCTL0.INCH -/
  inch : BitVec 4
  /-- ADC_MEM0.RESULT -/
  result : Word
  /-- ADC_IFG.IFG0 -/
  ifg0 : Bool
  /-- conv_pending, hidden; read as ADC_CTL0.SC -/
  pending : Bool
  /-- conv_ok, hidden -/
  ok : Bool
  deriving DecidableEq, Repr

/-- The pulse unit (R40-R45). -/
structure PulseUnit where
  /-- TMR_CTL.TSSEL -/
  tssel : BitVec 2
  /-- TMR_CTL.MC -/
  mc : BitVec 2
  /-- TMR_R -/
  count : Word
  /-- TMR_CCR0, the period P -/
  period : Word
  /-- TMR_CCTL1.OUTMOD -/
  outmod : BitVec 3
  /-- TMR_CCR1 -/
  ccr1 : Word
  /-- CMP_ACT, hidden -/
  cmpAct : Word
  deriving DecidableEq, Repr

/-- The system unit (R47). -/
structure SysUnit where
  /-- SYS_CTL.WDTHOLD -/
  wdtHold : Bool
  /-- SYS_CTL.PINLOCK -/
  pinLock : Bool
  deriving DecidableEq, Repr

/-- The machine state: the six groups of R20, and the model's own fields `params` (log 6) and `sched` (log 2). -/
structure State where
  dseq : Dseq
  /-- the program, immutable (R25) -/
  prog : List InstrWord
  pin : PinUnit
  conv : ConvUnit
  pulse : PulseUnit
  sys : SysUnit
  /-- the OPEN parameters and CLOCKS_OK; no step changes them -/
  params : Params
  /-- the agent steps to come, first one first; when the list is empty the DSEQ moves -/
  sched : List Event
  deriving DecidableEq, Repr

/-- The machine right after power-on (R51, R240, R241), its draws and parameters free, with no program loaded (log 9) and no
agent step scheduled (log 2). -/
def State.reset : State where
  dseq := { v := { v0 := none, v1 := none, v2 := none, v3 := none }, pc := 0, status := .running }
  prog := []
  pin := { out := Config.powerOnDraws.out, dir := 0, sel0 := 0, sel1 := 0 }
  conv :=
    { enc := false, on := false, sht := 0, shp := false, res := Config.powerOnDraws.res, inch := 0,
      result := Config.powerOnDraws.mem0, ifg0 := false, pending := false, ok := false }
  pulse := { tssel := 0, mc := 0, count := 0, period := 0, outmod := 0, ccr1 := 0, cmpAct := 0 }
  sys := { wdtHold := false, pinLock := true }
  params := Config.params
  sched := []

end Sys2Proof.Machine
end

