-- ==== Sys2Proof/Machine/Update.lean ====
section
/-! DEFINITION. The named updates of the state, one per component of R20; every other file changes the state through them. -/

namespace Sys2Proof.Machine

def State.setV (s : State) (v : VRegs) : State := { s with dseq := { s.dseq with v := v } }
def State.setPc (s : State) (pc : Nat) : State := { s with dseq := { s.dseq with pc := pc } }
def State.setStatus (s : State) (st : Status) : State := { s with dseq := { s.dseq with status := st } }
def State.setPin (s : State) (p : PinUnit) : State := { s with pin := p }
def State.setConv (s : State) (c : ConvUnit) : State := { s with conv := c }
def State.setPulse (s : State) (p : PulseUnit) : State := { s with pulse := p }
def State.setSys (s : State) (y : SysUnit) : State := { s with sys := y }
def State.setProg (s : State) (prog : List InstrWord) : State := { s with prog := prog }
def State.setSched (s : State) (es : List Event) : State := { s with sched := es }

/-- The value of a driver register, none while it is unwritten (R21). -/
def VRegs.get (v : VRegs) : VReg → Option Word
  | .v0 => v.v0
  | .v1 => v.v1
  | .v2 => v.v2
  | .v3 => v.v3

/-- The driver registers with one of them written (R21): no aliases, none hard-wired. -/
def VRegs.set (v : VRegs) (r : VReg) (x : Word) : VRegs :=
  match r with
  | .v0 => { v with v0 := some x }
  | .v1 => { v with v1 := some x }
  | .v2 => { v with v2 := some x }
  | .v3 => { v with v3 := some x }

/-- `v[i]` read (R11). -/
def State.readV (s : State) (r : VReg) : Option Word := s.dseq.v.get r

/-- `v[i] <- x` (R11). -/
def State.writeV (s : State) (r : VReg) (x : Word) : State := s.setV (s.dseq.v.set r x)

end Sys2Proof.Machine
end

