-- ==== Sys2Proof/Machine/Flags.lean ====
section
/-! DEFINITION. The only status flags of the block, ADC_IFG.IFG0 and conv_pending, and the operations that change them
(R38, R39, R49, R111). There are no condition codes and no processor status flags (R49). -/

namespace Sys2Proof.Machine

/-- The read of ADC_MEM0 clears IFG0, whatever it was (R147). -/
def State.clearIfg0 (s : State) : State := s.setConv { s.conv with ifg0 := false }

/-- A trigger sets conv_pending and records whether the conversion is configured; IFG0 and RESULT stay (R140, R153). -/
def State.startConversion (s : State) (ok : Bool) : State := s.setConv { s.conv with pending := true, ok := ok }

/-- The completion sets RESULT and IFG0 and ends the pending conversion; conv_ok stays (R39, R150; log 17). -/
def State.finishConversion (s : State) (r : Word) : State :=
  s.setConv { s.conv with result := r, ifg0 := true, pending := false }

end Sys2Proof.Machine
end

