-- ==== Sys2Proof/Machine/Pin.lean ====
section
/-! DEFINITION. The pin configuration unit: function selects, write rules and wire levels (R120-R129); the timer output of the
pulse unit that Pin C shows (R181). -/

namespace Sys2Proof.Machine

/-- The three pins (R28). -/
inductive Pin where
  | a
  | b
  | c
  deriving DecidableEq, Repr

/-- The pin's bit in the logical port (R28). -/
def Pin.bit : Pin → Nat
  | .a => 0
  | .b => 1
  | .c => 2

/-- The device pin behind a logical pin, an OPEN parameter (R6, R28). -/
def Pin.device (p : Params) : Pin → Nat
  | .a => p.pinA
  | .b => p.pinB
  | .c => p.pinC

/-- PINC_FSEL as a two-bit code (R6). -/
def pincFselCode : PincFsel → BitVec 2
  | .sel0Only => 0b01
  | .sel1Only => 0b10
  | .both => 0b11

/-- `FSEL_X = SEL1[X] ++ SEL0[X]` (R12). -/
def fsel (u : PinUnit) (x : Pin) : BitVec 2 :=
  BitVec.ofBool (u.sel1.getLsbD x.bit) ++ BitVec.ofBool (u.sel0.getLsbD x.bit)

/-- PinB_analog: both stages of Pin B select, and the pins are not locked (R127). -/
def pinBAnalog (s : State) : Bool := fsel s.pin .b == 0b11 && !s.sys.pinLock

/-- A GPIO write that makes PinB_analog false while a conversion is pending clears conv_ok (R125, C11; log 10). -/
def settlePinWrite (before after : State) : State :=
  if after.conv.pending && pinBAnalog before && !pinBAnalog after then
    after.setConv { after.conv with ok := false }
  else after

/-- Write rule of GPIO_OUT (R121). -/
def writeGpioOut (x : Word) (s : State) : State := s.setPin { s.pin with out := x.extractLsb' 0 3 }

/-- Write rule of GPIO_DIR (R122). -/
def writeGpioDir (x : Word) (s : State) : State := s.setPin { s.pin with dir := x.extractLsb' 0 3 }

/-- Write rule of GPIO_SEL0 (R123, R125). -/
def writeGpioSel0 (x : Word) (s : State) : State :=
  settlePinWrite s (s.setPin { s.pin with sel0 := x.extractLsb' 0 3 })

/-- Write rule of GPIO_SEL1 (R124, R125). -/
def writeGpioSel1 (x : Word) (s : State) : State :=
  settlePinWrite s (s.setPin { s.pin with sel1 := x.extractLsb' 0 3 })

/-- What the block puts on a pin (R128). -/
inductive Wire where
  | lo
  | hi
  | undriven
  | undef
  deriving DecidableEq, Repr

/-- The level a general-purpose pin shows: its OUT bit when it is an output (R128). -/
def gpioWire (u : PinUnit) (x : Pin) : Wire :=
  if u.dir.getLsbD x.bit then (if u.out.getLsbD x.bit then .hi else .lo) else .undriven

/-- The output level of the pulse unit (R181). -/
def timerOut (u : PulseUnit) : Wire :=
  if u.outmod = Config.outmodLow then .lo
  else if u.outmod = Config.outmodResetSet ∧ u.mc = Config.mcUp then (if u.count < u.cmpAct then .hi else .lo)
  else .undef

/-- `wire(X)` (R128, R129; the function-select codes are R126's). -/
def wire (s : State) (x : Pin) : Wire :=
  if s.sys.pinLock then .undef
  else if fsel s.pin x = 0b00 then gpioWire s.pin x
  else
    match x with
    | .a => .undef
    | .b => if fsel s.pin .b = 0b11 then .undriven else .undef
    | .c =>
      if fsel s.pin .c = pincFselCode s.params.pincFsel then
        (if s.pin.dir.getLsbD Pin.c.bit then timerOut s.pulse else .undriven)
      else .undef

/-- Whether a physical level (true: high) can be seen on a wire: Undriven and Undef leave it free (R128; log 20). -/
def Wire.allowsLevel : Wire → Bool → Bool
  | .lo, level => !level
  | .hi, level => level
  | .undriven, _ => true
  | .undef, _ => true

end Sys2Proof.Machine
end

