-- ==== Sys2Proof/Machine/RegMap.lean ====
section
/-! DEFINITION. The register map (R27): names, offsets, access, defined-bits masks, units and bus addresses. -/

namespace Sys2Proof.Machine

/-- The sixteen registers (R27). -/
inductive Reg where
  | gpioOut
  | gpioDir
  | gpioSel0
  | gpioSel1
  | adcCtl0
  | adcCtl1
  | adcCtl2
  | adcMctl0
  | adcMem0
  | adcIfg
  | tmrCtl
  | tmrR
  | tmrCcr0
  | tmrCctl1
  | tmrCcr1
  | sysCtl
  deriving DecidableEq, Repr

/-- The units a register belongs to (R27). -/
inductive RegUnit where
  | pin
  | conversion
  | pulse
  | system
  deriving DecidableEq, Repr

/-- The "off" column of R27. -/
def Reg.off : Reg → RegOff
  | .gpioOut => 0x00
  | .gpioDir => 0x02
  | .gpioSel0 => 0x04
  | .gpioSel1 => 0x06
  | .adcCtl0 => 0x10
  | .adcCtl1 => 0x12
  | .adcCtl2 => 0x14
  | .adcMctl0 => 0x16
  | .adcMem0 => 0x18
  | .adcIfg => 0x1A
  | .tmrCtl => 0x20
  | .tmrR => 0x22
  | .tmrCcr0 => 0x24
  | .tmrCctl1 => 0x26
  | .tmrCcr1 => 0x28
  | .sysCtl => 0x30

/-- Every register, in the order of R27. -/
def Reg.all : List Reg :=
  [.gpioOut, .gpioDir, .gpioSel0, .gpioSel1, .adcCtl0, .adcCtl1, .adcCtl2, .adcMctl0, .adcMem0, .adcIfg, .tmrCtl, .tmrR,
    .tmrCcr0, .tmrCctl1, .tmrCcr1, .sysCtl]

/-- The register at an offset; none where the offset is not mapped, odd offsets among them (R27, R65, R68). -/
def Reg.ofOff (off : RegOff) : Option Reg := Reg.all.find? fun r => r.off == off

/-- The "access" column of R27: whether the register is read-only (R109). -/
def Reg.readOnly : Reg → Bool
  | .adcMem0 => true
  | .adcIfg => true
  | .tmrR => true
  | _ => false

/-- The "defined bits mask" column of R27. -/
def Reg.definedMask : Reg → Word
  | .gpioOut => 0x0007
  | .gpioDir => 0x0007
  | .gpioSel0 => 0x0007
  | .gpioSel1 => 0x0007
  | .adcCtl0 => 0x0F13
  | .adcCtl1 => 0x0001
  | .adcCtl2 => 0x0030
  | .adcMctl0 => 0x000F
  | .adcMem0 => 0xFFFF
  | .adcIfg => 0x0001
  | .tmrCtl => 0x0334
  | .tmrR => 0xFFFF
  | .tmrCcr0 => 0xFFFF
  | .tmrCctl1 => 0x00E0
  | .tmrCcr1 => 0xFFFF
  | .sysCtl => 0x0003

/-- The "unit" column of R27. -/
def Reg.unit : Reg → RegUnit
  | .gpioOut => .pin
  | .gpioDir => .pin
  | .gpioSel0 => .pin
  | .gpioSel1 => .pin
  | .adcCtl0 => .conversion
  | .adcCtl1 => .conversion
  | .adcCtl2 => .conversion
  | .adcMctl0 => .conversion
  | .adcMem0 => .conversion
  | .adcIfg => .conversion
  | .tmrCtl => .pulse
  | .tmrR => .pulse
  | .tmrCcr0 => .pulse
  | .tmrCctl1 => .pulse
  | .tmrCcr1 => .pulse
  | .sysCtl => .system

/-- The bus address of an offset: BASE + off, BASE open (R27, R61). -/
def busAddress (p : Params) (off : RegOff) : Nat := p.base + off.toNat

end Sys2Proof.Machine
end

