-- ==== Sys2Proof/Machine/Conv.lean ====
section
/-! DEFINITION. The conversion unit: ADC_OK and the write rules of its control registers (R140-R149). -/

namespace Sys2Proof.Machine

/-- ADC_OK: the unit is configured as the initialization contract asks, Pin B is analog and the clocks are supplied (R149). -/
def adcOk (s : State) : Bool :=
  s.conv.on && s.conv.sht == Config.shtCode16 && s.conv.shp && s.conv.res == Config.resCode12 &&
    s.conv.inch == s.params.adcChB && pinBAnalog s && s.params.clocksOk

/-- Write rule of ADC_CTL0: the checks in their order, the three fields, then the trigger (R140-R143). -/
def writeAdcCtl0 (x : Word) (s : State) : Except Refusal State :=
  if s.conv.pending then .error (.adcBusy s.dseq.pc Reg.adcCtl0.off)
  else if s.conv.enc && (x.getLsbD 4 != s.conv.on || x.extractLsb' 8 4 != s.conv.sht) then
    .error (.adcCfgLocked s.dseq.pc Reg.adcCtl0.off x)
  else if x.getLsbD 1 && !x.getLsbD 0 then .error (.adcScNoEnc s.dseq.pc x)
  else
    let s1 := s.setConv { s.conv with enc := x.getLsbD 0, on := x.getLsbD 4, sht := x.extractLsb' 8 4 }
    .ok (if x.getLsbD 1 then s1.startConversion (adcOk s1) else s1)

/-- Write rule of ADC_CTL1 (R141, R142, R144). -/
def writeAdcCtl1 (x : Word) (s : State) : Except Refusal State :=
  if s.conv.pending then .error (.adcBusy s.dseq.pc Reg.adcCtl1.off)
  else if s.conv.enc && x.getLsbD 0 != s.conv.shp then .error (.adcCfgLocked s.dseq.pc Reg.adcCtl1.off x)
  else .ok (s.setConv { s.conv with shp := x.getLsbD 0 })

/-- Write rule of ADC_CTL2 (R141, R142, R145; the order is R224's). -/
def writeAdcCtl2 (x : Word) (s : State) : Except Refusal State :=
  if s.conv.pending then .error (.adcBusy s.dseq.pc Reg.adcCtl2.off)
  else if s.conv.enc && x.extractLsb' 4 2 != s.conv.res then .error (.adcCfgLocked s.dseq.pc Reg.adcCtl2.off x)
  else if x.extractLsb' 4 2 = Config.resReserved then .error (.fieldCode s.dseq.pc Reg.adcCtl2.off x)
  else .ok (s.setConv { s.conv with res := x.extractLsb' 4 2 })

/-- Write rule of ADC_MCTL0 (R141, R142, R146). -/
def writeAdcMctl0 (x : Word) (s : State) : Except Refusal State :=
  if s.conv.pending then .error (.adcBusy s.dseq.pc Reg.adcMctl0.off)
  else if s.conv.enc && x.extractLsb' 0 4 != s.conv.inch then .error (.adcCfgLocked s.dseq.pc Reg.adcMctl0.off x)
  else .ok (s.setConv { s.conv with inch := x.extractLsb' 0 4 })

end Sys2Proof.Machine
end

