-- ==== Sys2Proof/Machine/Pulse.lean ====
section
/-! DEFINITION. The pulse unit: the counter, the compare latch and the write rules of its registers (R170-R180). -/

namespace Sys2Proof.Machine

/-- A period boundary: the counter goes to 0 and the compare buffer is latched (R172, R180). -/
def PulseUnit.boundary (u : PulseUnit) : PulseUnit := { u with count := 0, cmpAct := u.ccr1 }

/-- One tick of the counter (R178). -/
def PulseUnit.tick (u : PulseUnit) : PulseUnit :=
  if u.period ≤ u.count then u.boundary else { u with count := u.count + 1 }

/-- Write rule of TMR_CTL; TCLR is an action bit (R170, R172). -/
def writeTmrCtl (x : Word) (s : State) : Except Refusal State :=
  if x.extractLsb' 4 2 ≠ Config.mcStop ∧ x.extractLsb' 4 2 ≠ Config.mcUp then
    .error (.fieldCode s.dseq.pc Reg.tmrCtl.off x)
  else
    let u : PulseUnit := { s.pulse with tssel := x.extractLsb' 8 2, mc := x.extractLsb' 4 2 }
    .ok (s.setPulse (if x.getLsbD 2 then u.boundary else u))

/-- Write rule of TMR_CCR0 (R174). -/
def writeTmrCcr0 (x : Word) (s : State) : Except Refusal State :=
  if x < s.pulse.count then .error (.periodBelowCount s.dseq.pc x s.pulse.count)
  else .ok (s.setPulse { s.pulse with period := x })

/-- Write rule of TMR_CCTL1 (R175). -/
def writeTmrCctl1 (x : Word) (s : State) : Except Refusal State :=
  if x.extractLsb' 5 3 ≠ Config.outmodLow ∧ x.extractLsb' 5 3 ≠ Config.outmodResetSet then
    .error (.fieldCode s.dseq.pc Reg.tmrCctl1.off x)
  else .ok (s.setPulse { s.pulse with outmod := x.extractLsb' 5 3 })

/-- Write rule of TMR_CCR1: the buffer, and CMP_ACT too while the counter is stopped; never a refusal (R176). -/
def writeTmrCcr1 (x : Word) (s : State) : State :=
  if s.pulse.mc = Config.mcStop then s.setPulse { s.pulse with ccr1 := x, cmpAct := x }
  else s.setPulse { s.pulse with ccr1 := x }

end Sys2Proof.Machine
end

