-- ==== Sys2Proof/Machine/System.lean ====
section
/-! DEFINITION. The system unit: the write rule of SYS_CTL (R234). -/

namespace Sys2Proof.Machine

/-- Write rule of SYS_CTL: the watchdog hold is set and the pin lock cleared one way only (R234). -/
def writeSysCtl (x : Word) (s : State) : Except Refusal State :=
  if s.sys.wdtHold && !x.getLsbD 0 then .error (.sysRelock s.dseq.pc x)
  else if !s.sys.pinLock && x.getLsbD 1 then .error (.sysRelock s.dseq.pc x)
  else .ok (s.setSys { wdtHold := x.getLsbD 0, pinLock := x.getLsbD 1 })

end Sys2Proof.Machine
end

