-- ==== Sys2Proof/Machine/Ops.lean ====
section
/-! DEFINITION. The shared operations: raising a fault or a refusal (R220), the advance of pc (R24), the register reads and
writes of the bus (R106-R110). -/

namespace Sys2Proof.Machine

/-- What a meaning answers. -/
abbrev Answer := Host.Outcome State Fault Refusal

/-- `raise Fault(code)`: the status records the fault and nothing else changes (R220). This is the machine's taking of an
exception: it saves nothing, changes no mode and jumps nowhere (R227), and there is no return from it (R229). -/
def State.raiseFault (s : State) (f : Fault) : State := s.setStatus (.faulted f)

/-- `raise Refuse(code)`: the status records the refusal and nothing else changes (R220). -/
def State.raiseRefuse (s : State) (r : Refusal) : State := s.setStatus (.refused r)

/-- `pc <- pc + 1` (R24). -/
def State.advance (s : State) : State := s.setPc (s.dseq.pc + 1)

/-- The state an admitted or refused write leaves: pc advances where it was admitted, and only the status changes where it was
refused (R24, R111, R220). -/
def settle (s : State) : Except Refusal State → State
  | .ok s' => s'.advance
  | .error r => s.raiseRefuse r

/-- The end of a write instruction. -/
def commit (s : State) (w : Except Refusal State) : Answer := .next (settle s w)

/-- `Stored(off)`: the value a read of the register returns, without the read's side effect (R106, R110). -/
def stored (r : Reg) (s : State) : Word :=
  match r with
  | .gpioOut => s.pin.out.setWidth 16
  | .gpioDir => s.pin.dir.setWidth 16
  | .gpioSel0 => s.pin.sel0.setWidth 16
  | .gpioSel1 => s.pin.sel1.setWidth 16
  | .adcCtl0 =>
    (s.conv.sht.setWidth 16 <<< 8) ||| ((BitVec.ofBool s.conv.on).setWidth 16 <<< 4) |||
      ((BitVec.ofBool s.conv.pending).setWidth 16 <<< 1) ||| (BitVec.ofBool s.conv.enc).setWidth 16
  | .adcCtl1 => (BitVec.ofBool s.conv.shp).setWidth 16
  | .adcCtl2 => s.conv.res.setWidth 16 <<< 4
  | .adcMctl0 => s.conv.inch.setWidth 16
  | .adcMem0 => s.conv.result
  | .adcIfg => (BitVec.ofBool s.conv.ifg0).setWidth 16
  | .tmrCtl => (s.pulse.tssel.setWidth 16 <<< 8) ||| (s.pulse.mc.setWidth 16 <<< 4)
  | .tmrR => s.pulse.count
  | .tmrCcr0 => s.pulse.period
  | .tmrCctl1 => s.pulse.outmod.setWidth 16 <<< 5
  | .tmrCcr1 => s.pulse.ccr1
  | .sysCtl => ((BitVec.ofBool s.sys.pinLock).setWidth 16 <<< 1) ||| (BitVec.ofBool s.sys.wdtHold).setWidth 16

/-- The side effect of a read: only the read of ADC_MEM0 has one (R67, R106, R147). -/
def readEffect (r : Reg) (s : State) : State :=
  match r with
  | .adcMem0 => s.clearIfg0
  | _ => s

/-- `RegRead(off)`: the value and the state after the read's side effect (R106). -/
def regRead (off : RegOff) (s : State) : Except Refusal (Word × State) :=
  match Reg.ofOff off with
  | none => .error (.unmapped s.dseq.pc off)
  | some r => .ok (stored r s, readEffect r s)

/-- A register's own write rule (R107 step 4 and its list); a read-only register has none (R109). -/
def writeReg (r : Reg) (x : Word) (s : State) : Except Refusal State :=
  match r with
  | .gpioOut => .ok (writeGpioOut x s)
  | .gpioDir => .ok (writeGpioDir x s)
  | .gpioSel0 => .ok (writeGpioSel0 x s)
  | .gpioSel1 => .ok (writeGpioSel1 x s)
  | .adcCtl0 => writeAdcCtl0 x s
  | .adcCtl1 => writeAdcCtl1 x s
  | .adcCtl2 => writeAdcCtl2 x s
  | .adcMctl0 => writeAdcMctl0 x s
  | .adcMem0 => .error (.readonlyWrite s.dseq.pc Reg.adcMem0.off)
  | .adcIfg => .error (.readonlyWrite s.dseq.pc Reg.adcIfg.off)
  | .tmrCtl => writeTmrCtl x s
  | .tmrR => .error (.readonlyWrite s.dseq.pc Reg.tmrR.off)
  | .tmrCcr0 => writeTmrCcr0 x s
  | .tmrCctl1 => writeTmrCctl1 x s
  | .tmrCcr1 => .ok (writeTmrCcr1 x s)
  | .sysCtl => writeSysCtl x s

/-- The checks on the target of a write, R107 steps 1 and 2: mapped, then not read-only (R65, R109). -/
def writeTarget (off : RegOff) (s : State) : Except Refusal Reg :=
  match Reg.ofOff off with
  | none => .error (.unmapped s.dseq.pc off)
  | some r => if r.readOnly then .error (.readonlyWrite s.dseq.pc off) else .ok r

/-- `RegWrite(off, x)`: the four checks in order, the last the register's own (R107, R108). -/
def regWrite (off : RegOff) (x : Word) (s : State) : Except Refusal State :=
  match writeTarget off s with
  | .error e => .error e
  | .ok r => if x &&& ~~~r.definedMask ≠ 0 then .error (.reservedBits s.dseq.pc off x) else writeReg r x s

/-- The atomic read-modify-write of BIS and BIC: the target is checked, then the changed stored value is written (R66, R102,
R103). -/
def regModify (off : RegOff) (change : Word → Word) (s : State) : Except Refusal State :=
  match writeTarget off s with
  | .error e => .error e
  | .ok r => regWrite off (change (stored r s)) s

end Sys2Proof.Machine
end

