-- ==== Sys2Proof/Machine/Operands.lean ====
section
/-! DEFINITION. The driver-register operand forms: a source register, which faults while it is unwritten, and a destination
register (R21, R22, R83). Offsets and immediates are used unchanged (R82, R83). -/

namespace Sys2Proof.Machine

/-- An instruction's use of a source driver register: the read of an unwritten register raises
FLT_UNWRITTEN_VREG, before every check of the use (R21, R104, R201, R221, R224; D16). -/
def withSource (src : VReg) (s : State) (use : Word → Answer) : Answer :=
  match s.readV src with
  | none => .next (s.raiseFault (.unwrittenVreg s.dseq.pc src))
  | some x => use x

/-- The end of an instruction that writes a destination register: `v[rd] <- x; pc <- pc + 1`. -/
def writeDest (dst : VReg) (x : Word) (s : State) : Answer := .next (s.writeV dst x).advance

end Sys2Proof.Machine
end

