-- ==== Sys2Proof/Machine/Bus.lean ====
section
/-! DEFINITION. The bus-access instructions WR, BIS, BIC, WRV and RD (R101-R105). -/

namespace Sys2Proof.Machine

/-- WR off, #imm (R101). -/
def execWr (off : RegOff) (imm : Word) (s : State) : Answer := commit s (regWrite off imm s)

/-- BIS off, #mask (R102). -/
def execBis (off : RegOff) (mask : Word) (s : State) : Answer :=
  commit s (regModify off (fun old => old ||| mask) s)

/-- BIC off, #mask (R103). -/
def execBic (off : RegOff) (mask : Word) (s : State) : Answer :=
  commit s (regModify off (fun old => old &&& ~~~mask) s)

/-- WRV off, vS (R104). -/
def execWrv (off : RegOff) (src : VReg) (s : State) : Answer :=
  withSource src s fun x => commit s (regWrite off x s)

/-- RD vD, off (R105). -/
def execRd (dst : VReg) (off : RegOff) (s : State) : Answer :=
  match regRead off s with
  | .error r => .next (s.raiseRefuse r)
  | .ok (x, s') => writeDest dst x s'

end Sys2Proof.Machine
end

