-- ==== Sys2Proof/WellFormed.lean ====
section
/-! DEFINITION. Which terms of Instr are instructions: every operand value is admitted but a zero divisor (R84, R201). -/

namespace Sys2Proof

/-- DIVU's divisor lies in [1, 65535]: "d = 0 is not an instruction" (R201). -/
def Instr.wellFormed : Instr → Bool
  | .wr _ _ => true
  | .bis _ _ => true
  | .bic _ _ => true
  | .wrv _ _ => true
  | .rd _ _ => true
  | .divu _ _ divisor => divisor != 0
  | .poll _ _ => true
  | .jmp _ => true
  | .halt => true

end Sys2Proof
end

