-- ==== Sys2Proof/Decode.lean ====
section
/-! DEFINITION. Decoding of instruction words (R80-R88), total and rejecting by name, the encoder written from the same
table (R84, R85), and the byte image of a program (R64). -/

namespace Sys2Proof

/-- The fields of an instruction word beside op (R81). -/
inductive WordField where
  | rd
  | rs
  | addr
  | imm
  deriving DecidableEq, Repr

/-- Why a word is illegal (R86, R87), or why bytes hold no word. -/
inductive DecodeError where
  /-- op is 0x0 or one of 0x9..0xE (R86 step 1) -/
  | reservedOpcode (op : BitVec 4)
  /-- a field that R84 marks 0 is nonzero (R86 step 2) -/
  | mustBeZero (f : WordField)
  /-- DIVU with imm = 0 (R86 step 3) -/
  | zeroDivisor
  /-- fewer than four bytes are left: not an instruction word -/
  | truncated
  deriving DecidableEq, Repr

/-! ## Fields (R81) -/

def opField (w : InstrWord) : BitVec 4 := w.extractLsb' 28 4
def rdField (w : InstrWord) : BitVec 2 := w.extractLsb' 26 2
def rsField (w : InstrWord) : BitVec 2 := w.extractLsb' 24 2
def addrField (w : InstrWord) : RegOff := w.extractLsb' 16 8
def immField (w : InstrWord) : Word := w.extractLsb' 0 16

/-- The driver register a two-bit index names (R83). -/
def VReg.ofBits (b : BitVec 2) : VReg :=
  if b = 0 then .v0 else if b = 1 then .v1 else if b = 2 then .v2 else .v3

/-- The two-bit index of a driver register. -/
def VReg.toBits : VReg → BitVec 2
  | .v0 => 0
  | .v1 => 1
  | .v2 => 2
  | .v3 => 3

/-- Whether a field of the word is zero. -/
def WordField.isZero (w : InstrWord) : WordField → Bool
  | .rd => rdField w == 0
  | .rs => rsField w == 0
  | .addr => addrField w == 0
  | .imm => immField w == 0

/-- The instruction, unless one of the fields that R84 marks 0 for it is nonzero (R86 step 2). -/
def withZeroFields (w : InstrWord) (i : Instr) : List WordField → Except DecodeError Instr
  | [] => .ok i
  | f :: fs => if f.isZero w then withZeroFields w i fs else .error (.mustBeZero f)

/-- Decoding, in the order of R86: opcode, must-be-zero fields, DIVU's divisor. -/
def decode (w : InstrWord) : Except DecodeError Instr :=
  if opField w = 0x1 then withZeroFields w (.wr (addrField w) (immField w)) [.rd, .rs]
  else if opField w = 0x2 then withZeroFields w (.bis (addrField w) (immField w)) [.rd, .rs]
  else if opField w = 0x3 then withZeroFields w (.bic (addrField w) (immField w)) [.rd, .rs]
  else if opField w = 0x4 then withZeroFields w (.wrv (addrField w) (.ofBits (rsField w))) [.rd, .imm]
  else if opField w = 0x5 then withZeroFields w (.rd (.ofBits (rdField w)) (addrField w)) [.rs, .imm]
  else if opField w = 0x6 then
    if addrField w ≠ 0 then .error (.mustBeZero .addr)
    else if immField w = 0 then .error .zeroDivisor
    else .ok (.divu (.ofBits (rdField w)) (.ofBits (rsField w)) (immField w))
  else if opField w = 0x7 then withZeroFields w (.poll (addrField w) (immField w)) [.rd, .rs]
  else if opField w = 0x8 then withZeroFields w (.jmp (immField w)) [.rd, .rs, .addr]
  else if opField w = 0xF then withZeroFields w .halt [.rd, .rs, .addr, .imm]
  else .error (.reservedOpcode (opField w))

/-! ## Encoding (R85) -/

/-- `w = (op << 28) | (rd << 26) | (rs << 24) | (addr << 16) | imm` (R85). -/
def assemble (op : BitVec 4) (rd rs : BitVec 2) (addr : RegOff) (imm : Word) : InstrWord :=
  (op.setWidth 32 <<< 28) ||| (rd.setWidth 32 <<< 26) ||| (rs.setWidth 32 <<< 24) ||| (addr.setWidth 32 <<< 16) |||
    imm.setWidth 32

/-- The word of an instruction, by its row of R84. -/
def encode : Instr → InstrWord
  | .wr off imm => assemble 0x1 0 0 off imm
  | .bis off mask => assemble 0x2 0 0 off mask
  | .bic off mask => assemble 0x3 0 0 off mask
  | .wrv off src => assemble 0x4 0 src.toBits off 0
  | .rd dst off => assemble 0x5 dst.toBits 0 off 0
  | .divu dst src divisor => assemble 0x6 dst.toBits src.toBits 0 divisor
  | .poll off mask => assemble 0x7 0 0 off mask
  | .jmp target => assemble 0x8 0 0 0 target
  | .halt => assemble 0xF 0 0 0 0

/-! ## The byte image of a program (R64) -/

/-- Four bytes as a word, least significant byte first (R64). -/
def wordOfBytes (b0 b1 b2 b3 : Byte) : InstrWord :=
  (b3.setWidth 32 <<< 24) ||| (b2.setWidth 32 <<< 16) ||| (b1.setWidth 32 <<< 8) ||| b0.setWidth 32

/-- A word as four bytes, least significant byte first (R64). -/
def bytesOfWord (w : InstrWord) : List Byte :=
  [w.extractLsb' 0 8, w.extractLsb' 8 8, w.extractLsb' 16 8, w.extractLsb' 24 8]

/-- Decoding of the first instruction of a byte image, with the bytes after it; total on any bytes. -/
def decodeBytes : List Byte → Except DecodeError (Instr × List Byte)
  | b0 :: b1 :: b2 :: b3 :: rest =>
    match decode (wordOfBytes b0 b1 b2 b3) with
    | .ok i => .ok (i, rest)
    | .error e => .error e
  | _ => .error .truncated

/-- The byte image of a list of instructions. -/
def encodeBytes (is : List Instr) : List Byte :=
  is.flatMap fun i => bytesOfWord (encode i)

/-- The instruction word whose low `nbits` bits are those of `w`, every bit above them 0. -/
def tableWord (nbits w : Nat) : InstrWord := BitVec.ofNat 32 (w % 2 ^ nbits)

/-- The instruction the decoder reads from the table word `w` of `nbits` bits, laid out as the byte image of R64. No
instruction is longer than 32 bits (R80). -/
def decodeTableWord (nbits w : Nat) : Option Instr :=
  if nbits ≤ 32 then
    match decodeBytes (bytesOfWord (tableWord nbits w)) with
    | .ok (i, _) => some i
    | .error _ => none
  else none

end Sys2Proof
end

