-- ==== Sys2Proof/Machine/Control.lean ====
section
/-! DEFINITION. The instructions DIVU, POLL, JMP and HALT (R201-R204). -/

namespace Sys2Proof.Machine

/-- DIVU vD, vS, #divisor (R201). No word decodes to divisor 0; the ill-formed term raises the fault its word raises at
fetch (R87; log 11). -/
def execDivu (dst src : VReg) (divisor : Word) (s : State) : Answer :=
  if divisor = 0 then .next (s.raiseFault (.illegalOp s.dseq.pc (encode (.divu dst src divisor))))
  else withSource src s fun x => writeDest dst (x / divisor) s

/-- POLL off, #mask: one read; pc advances when a masked bit is set and stays otherwise (R202). -/
def execPoll (off : RegOff) (mask : Word) (s : State) : Answer :=
  match regRead off s with
  | .error r => .next (s.raiseRefuse r)
  | .ok (x, s') => .next (if x &&& mask ≠ 0 then s'.advance else s')

/-- JMP #target: an absolute program index (R203). -/
def execJmp (target : Word) (s : State) : Answer := .next (s.setPc target.toNat)

/-- HALT: the status becomes Halted, pc stays (R204). -/
def execHalt (s : State) : Answer := .next (s.setStatus .halted)

end Sys2Proof.Machine
end

