-- ==== Sys2Proof/Machine/Dispatch.lean ====
section
/-! DEFINITION. The dispatch of an instruction to its meaning, one arm per constructor. -/

namespace Sys2Proof.Machine

def exec (i : Instr) (s : State) : Host.Outcome State Fault Refusal :=
  match i with
  | .wr off imm => Sys2Proof.Machine.execWr off imm s
  | .bis off mask => Sys2Proof.Machine.execBis off mask s
  | .bic off mask => Sys2Proof.Machine.execBic off mask s
  | .wrv off src => Sys2Proof.Machine.execWrv off src s
  | .rd dst off => Sys2Proof.Machine.execRd dst off s
  | .divu dst src divisor => Sys2Proof.Machine.execDivu dst src divisor s
  | .poll off mask => Sys2Proof.Machine.execPoll off mask s
  | .jmp target => Sys2Proof.Machine.execJmp target s
  | .halt => Sys2Proof.Machine.execHalt s

end Sys2Proof.Machine
end

