-- ==== Sys2Proof/Machine/Fetch.lean ====
section
/-! DEFINITION. Fetch and the DSEQ step (R200), and the placing of a word where the next fetch reads it. -/

namespace Sys2Proof.Machine

/-- The instruction at pc, or the fault its fetch raises (R23, R87, R200). -/
def fetch (s : State) : Except Fault Instr :=
  match s.prog[s.dseq.pc]? with
  | none => .error (.pcRange s.dseq.pc)
  | some w =>
    match decode w with
    | .error _ => .error (.illegalOp s.dseq.pc w)
    | .ok i => .ok i

/-- One DSEQ step (R200); it is taken only while the status is Running. -/
def dseqStep (s : State) : Answer :=
  match fetch s with
  | .error f => .next (s.raiseFault f)
  | .ok i => exec i s

/-- The program with `w` at index `k`; a program that ends before `k` is filled with all-zero words, which are illegal (R87). -/
def placeWord (w : InstrWord) : Nat → List InstrWord → List InstrWord
  | 0, [] => [w]
  | 0, _ :: rest => w :: rest
  | k + 1, [] => 0 :: placeWord w k []
  | k + 1, v :: rest => v :: placeWord w k rest

/-- The schedule that lets the DSEQ move next. -/
def dseqNext : List Event → List Event
  | [] => []
  | e :: es => .dseq :: e :: es

/-- The state whose very next step fetches and runs the word `w`: the word at pc, Running, the DSEQ next to move (log 9). -/
def placeForFetch (s : State) (w : InstrWord) : State :=
  ((s.setProg (placeWord w s.dseq.pc s.prog)).setStatus .running).setSched (dseqNext s.sched)

end Sys2Proof.Machine
end

