-- ==== Sys2Proof/Machine/Agents.lean ====
section
/-! DEFINITION. The agents' steps (R8): when each is enabled and what it does; the reset event (R240); the choice of the next
agent from the schedule (log 2, 3). -/

namespace Sys2Proof.Machine

/-- The reset event (R240): every component of R51 at its value, with the draws `d`; the program, the parameters and the
schedule to come are not changed. -/
def State.resetWith (s : State) (d : ResetDraws) : State where
  dseq := { v := { v0 := none, v1 := none, v2 := none, v3 := none }, pc := 0, status := .running }
  prog := s.prog
  pin := { out := d.out, dir := 0, sel0 := 0, sel1 := 0 }
  conv :=
    { enc := false, on := false, sht := 0, shp := false, res := d.res, inch := 0, result := d.mem0, ifg0 := false,
      pending := false, ok := false }
  pulse := { tssel := 0, mc := 0, count := 0, period := 0, outmod := 0, ccr1 := 0, cmpAct := 0 }
  sys := { wdtHold := false, pinLock := true }
  params := s.params
  sched := s.sched

/-- Whether agents other than the DSEQ may step: the status is Running or Halted (R26). -/
def Status.live : Status → Bool
  | .running => true
  | .halted => true
  | .faulted _ => false
  | .refused _ => false

/-- When an agent's step is enabled, with its draws admitted: the DSEQ while Running (R26), complete while a conversion is
pending, with a result in [0, 4095] if conv_ok (R150, R151), tick in up mode (R178), the watchdog while it is not held (R228). -/
def Event.enabled (s : State) : Event → Bool
  | .dseq => s.dseq.status == .running
  | .complete r => s.dseq.status.live && s.conv.pending && (!s.conv.ok || decide (r ≤ Config.adcMax))
  | .tick => s.dseq.status.live && s.pulse.mc == Config.mcUp
  | .watchdog _ => s.dseq.status.live && !s.sys.wdtHold

/-- The effect of an agent's step (R150, R178, R200, R228). -/
def Event.fire (s : State) : Event → Answer
  | .dseq => dseqStep s
  | .complete r => .next (s.finishConversion r)
  | .tick => .next (s.setPulse s.pulse.tick)
  | .watchdog d => .next (s.resetWith d)

/-- The agent step the schedule gives: its first, or the DSEQ's where the schedule is empty (log 2). -/
def nextEvent (s : State) : Event :=
  match s.sched with
  | [] => .dseq
  | e :: _ => e

/-- The state with the schedule's first entry taken. -/
def takeEvent (s : State) : State := s.setSched s.sched.tail

/-- The step of a Running or Halted machine: the scheduled agent moves if its step is enabled, and nothing but the schedule
changes otherwise (log 3, 4). -/
def agentStep (s : State) : Answer :=
  if (nextEvent s).enabled (takeEvent s) then (nextEvent s).fire (takeEvent s) else .next (takeEvent s)

end Sys2Proof.Machine
end

