-- ==== Sys2Proof/Machine/Step.lean ====
section
/-! DEFINITION. One step of the machine, and the placing of an instruction for its fetch. -/

namespace Sys2Proof.Machine

/-- One step. From Faulted and Refused no agent steps (R26, R220): the step answers the recorded fault or refusal (log 1). -/
def step (s : State) : Host.Outcome State Fault Refusal :=
  match s.dseq.status with
  | .faulted f => .fault f
  | .refused r => .refused r
  | .running => agentStep s
  | .halted => agentStep s

/-- The state whose next step fetches and runs the instruction with the bits `w` of the opcode table (log 9). -/
def State.withFetchWord (s : State) (nbits w : Nat) : State :=
  placeForFetch s (tableWord nbits w)

end Sys2Proof.Machine
end

