-- ==== Sys2Proof/Machine/Actuate.lean ====
section
/-! DEFINITION. The integer actuation interface of the pulse unit (R188): an operation beside the instruction set, on a signed
command (log 13, 22). -/

namespace Sys2Proof.Machine

/-- The compare value of a nonnegative command: `floor(command / 10)` (R187); the spec states none above 65535 (log 12). -/
def compareOfCommand (c : Int) : Word :=
  if c ≤ 65535 then BitVec.ofNat 16 (c.toNat / Config.cmpDiv.toNat) else Config.wideCommandCompare c

/-- The effect of an integer command on a machine that runs: the compare register is written by its write rule; a negative
command follows NEG_CMD_POLICY, an OPEN parameter (R6, R188). -/
def actuateLive (c : Int) (s : State) : State :=
  if 0 ≤ c then writeTmrCcr1 (compareOfCommand c) s
  else
    match s.params.negCmdPolicy with
    | .refuse => s.raiseRefuse (.negCommand c)
    | .unsigned => writeTmrCcr1 (BitVec.ofInt 16 c / Config.cmpDiv) s
    | .cTrunc => writeTmrCcr1 (BitVec.ofInt 16 (c.tdiv Config.cmpDiv.toNat)) s

/-- Actuation by an integer command (R188). DESIGN CHOICE (log 22): R188 names no run status; the interface acts while the status
is Running or Halted, and on a Faulted or Refused machine it answers the recorded reason and changes nothing, as step does, since
the status is never cleared and the whole machine has stopped there (R26, R220). -/
def actuateInt (c : Int) (s : State) : Answer :=
  match s.dseq.status with
  | .running => .next (actuateLive c s)
  | .halted => .next (actuateLive c s)
  | .faulted f => .fault f
  | .refused r => .refused r

end Sys2Proof.Machine
end

