-- ==== Sys2Proof/Safety.lean ====
section
/-! DEFINITION. The terms claims use: observation (R9), the end of a run and a clean run (R205, R220), the interleaving
relation of the agents (R70, R225) and its fairness (R152, R179, R200, R228), the bring-up launch premise (R244), the
invariant of the machine, and the value a bus write carries. -/

namespace Sys2Proof.Machine

/-- What a claim observes of a state: the wires of Pin A and Pin C (R9). -/
def observe (s : State) : Wire × Wire := (wire s .a, wire s .c)

/-- The condition of a run's end: Halted with no conversion pending; a run ends at its first such state (R205). -/
def State.ended (s : State) : Bool := s.dseq.status == .halted && !s.conv.pending

/-- "No fault and no refusal recorded", the premise of every claim (R220). -/
def State.clean (s : State) : Bool := s.dseq.status.live

/-- The bring-up launch premise (R244) of a program whose first instruction stands at index `first`: a reset state but for the
held watchdog, the released pins and pc, with the clocks supplied. DESIGN CHOICE (log 23): R244 asks for the state of R240, with
pc 0, and R245 lets CONTROL_MAIN_B meet the premise from its index 2 on, so pc is a parameter here. -/
def State.launchedAt (first : Nat) (s : State) : Prop :=
  ∃ (s0 : State) (d : ResetDraws),
    s = ((s0.resetWith d).setSys { wdtHold := true, pinLock := false }).setPc first ∧ s.params.clocksOk = true

/-- The premise of a program without bring-up, which starts at index 0 (R242, R244). -/
def State.launched (s : State) : Prop := s.launchedAt 0

/-! ## Interleavings and fairness -/

/-- One transition of the interleaving semantics: an enabled agent step with its draws (R70, R225). The schedule plays no
part in it. -/
def Transition (s : State) (e : Event) (t : State) : Prop := e.enabled s = true ∧ e.fire s = .next t

/-- The agents (R8). -/
inductive Agent where
  | dseq
  | adc
  | tmr
  | wdt
  deriving DecidableEq, Repr

/-- The agent that takes a step. -/
def Event.agent : Event → Agent
  | .dseq => .dseq
  | .complete _ => .adc
  | .tick => .tmr
  | .watchdog _ => .wdt

/-- The states in which an agent's step is enabled and carries weak fairness (R152, R179, R200, R228). -/
def fairlyEnabled (s : State) : Agent → Bool
  | .dseq => Event.enabled s .dseq
  | .adc => s.dseq.status.live && s.conv.pending && s.conv.ok
  | .tmr => Event.enabled s .tick && s.pulse.tssel == s.params.tsselCode && s.params.clocksOk
  | .wdt => false

/-- An infinite execution: a state for each moment, and the step that leads to the next, or none where nothing moves (a
halted machine with no enabled step). -/
structure Execution where
  state : Nat → State
  event : Nat → Option Event
  follows : ∀ n, match event n with
    | some e => Transition (state n) e (state (n + 1))
    | none => state (n + 1) = state n

/-- Weak fairness: an agent whose step is fairly enabled from some moment on takes a step at or after that moment (R11). -/
def Execution.fair (x : Execution) : Prop :=
  ∀ (a : Agent) (n : Nat), (∀ m, n ≤ m → fairlyEnabled (x.state m) a = true) →
    ∃ m, n ≤ m ∧ (x.event m).map Event.agent = some a

/-! ## Runs and their end (R205) -/

/-- The states of the runs from `s`: an ended state has no successor in its run, so steps of TMR or WDT after the end are not
part of it (R205). -/
inductive InRun (s : State) : State → Prop
  | start : InRun s s
  | step {t u : State} {e : Event} : InRun s t → t.ended = false → Transition t e u → InRun s u

/-- `t` is an end state of a run from `s` (R205). -/
def EndsIn (s t : State) : Prop := InRun s t ∧ t.ended = true

/-- The moments of an execution that belong to the run: no earlier state has ended it (R205). -/
def Execution.inRun (x : Execution) (n : Nat) : Prop := ∀ m, m < n → (x.state m).ended = false

/-- The run ends at moment `n`: its first ended state stands there (R205). -/
def Execution.endsAt (x : Execution) (n : Nat) : Prop := x.inRun n ∧ (x.state n).ended = true

/-- The end state of the run that the schedule in `s` gives, if it comes within `k` steps; no step is taken from an ended state,
and a run that faults or is refused has none (R205, R220). -/
def runToEnd : Nat → State → Option State
  | 0, s => if s.ended then some s else none
  | k + 1, s =>
    if s.ended then some s
    else
      match step s with
      | .next t => runToEnd k t
      | .fault _ => none
      | .refused _ => none

/-! ## Invariants -/

/-- The counter never passes the period (R182). -/
def countInv (s : State) : Prop := s.pulse.count ≤ s.pulse.period

/-- MC and OUTMOD hold no reserved code (R40, R43, R170, R175). -/
def codesInv (s : State) : Prop :=
  (s.pulse.mc = Config.mcStop ∨ s.pulse.mc = Config.mcUp) ∧
    (s.pulse.outmod = Config.outmodLow ∨ s.pulse.outmod = Config.outmodResetSet)

/-- A conversion is pending only while ENC is set, and a pending conversion with conv_ok is still configured (R125, R141). -/
def convInv (s : State) : Prop :=
  s.conv.pending = true → s.conv.enc = true ∧ (s.conv.ok = true → adcOk s = true)

/-- The invariant of the machine. -/
def Inv (s : State) : Prop := countInv s ∧ codesInv s ∧ convInv s

/-! ## Statements' vocabulary -/

/-- The instruction writes the value `x` to the register at its offset when it executes in `s`: the four write
instructions, each with the value its rule gives to RegWrite (R101-R104). -/
def Writes (i : Instr) (r : Reg) (x : Word) (s : State) : Prop :=
  i = .wr r.off x ∨ (∃ src, i = .wrv r.off src ∧ s.readV src = some x) ∨
    (∃ mask, i = .bis r.off mask ∧ x = stored r s ||| mask) ∨
    (∃ mask, i = .bic r.off mask ∧ x = stored r s &&& ~~~mask)

/-- The value sets no reserved bit of the register (R108). -/
def Fits (r : Reg) (x : Word) : Prop := x &&& ~~~r.definedMask = 0

/-- The wires of `n` ticks from `u` on, the state before each tick observed. -/
def timerTrace : Nat → PulseUnit → List Wire
  | 0, _ => []
  | n + 1, u => timerOut u :: timerTrace n u.tick

end Sys2Proof.Machine
end

