-- ==== Sys2Proof/Certificates/Slice0/Obligations.lean ====
section
/-! DEFINITION. The statements about the model, each the formal text of rules of the spec; they are proved elsewhere. -/

open Sys2Proof Sys2Proof.Machine

/-! ## Encoding -/

/-- Decoding the word of a well-formed instruction gives the instruction back (R84, R85, R86). -/
def Obligations.DecodeOfEncodeIsTheInstruction : Prop :=
  ∀ i : Instr, i.wellFormed = true → decode (encode i) = .ok i

/-- Every word that decodes is the word of its instruction, so no bit of a legal word is dropped, and the instruction is
well formed (R84, R85, R86). -/
def Obligations.LegalWordIsItsInstructionsEncoding : Prop :=
  ∀ (w : InstrWord) (i : Instr), decode w = .ok i → i.wellFormed = true ∧ encode i = w

/-- A word is legal exactly if it matches a row of the opcode table, and for DIVU has a nonzero imm (R84, R86, R87). -/
def Obligations.LegalWordsAreTheTableRows : Prop :=
  ∀ w : InstrWord, (∃ i, decode w = .ok i) ↔
    w &&& 0xFF000000#32 = 0x10000000#32 ∨ w &&& 0xFF000000#32 = 0x20000000#32 ∨ w &&& 0xFF000000#32 = 0x30000000#32 ∨
    w &&& 0xFC00FFFF#32 = 0x40000000#32 ∨ w &&& 0xF300FFFF#32 = 0x50000000#32 ∨
    (w &&& 0xF0FF0000#32 = 0x60000000#32 ∧ w &&& 0x0000FFFF#32 ≠ 0#32) ∨ w &&& 0xFF000000#32 = 0x70000000#32 ∨
    w &&& 0xFFFF0000#32 = 0x80000000#32 ∨ w &&& 0xFFFFFFFF#32 = 0xF0000000#32

/-- Words of the spec's encoding examples decode to the instructions they stand for, or to none (R84-R87). -/
def Obligations.SampleWordsDecode : Prop :=
  decode 0x102403E8#32 = .ok (.wr 0x24 1000) ∧ decode 0x20100003#32 = .ok (.bis 0x10 3) ∧
  decode 0x30140030#32 = .ok (.bic 0x14 0x30) ∧ decode 0x43280000#32 = .ok (.wrv 0x28 .v3) ∧
  decode 0x5C180000#32 = .ok (.rd .v3 0x18) ∧ decode 0x6100000A#32 = .ok (.divu .v0 .v1 10) ∧
  decode 0x701A0001#32 = .ok (.poll 0x1A 1) ∧ decode 0x8000000F#32 = .ok (.jmp 15) ∧
  decode 0xF0000000#32 = .ok .halt ∧ decode 0x60000000#32 = .error .zeroDivisor ∧
  decode 0x14240000#32 = .error (.mustBeZero .rd) ∧ decode 0x00000000#32 = .error (.reservedOpcode 0)

/-- The byte image of a well-formed instruction is its word, least significant byte first, and decoding the image gives the
instruction and the bytes after it (R64). -/
def Obligations.ByteImageDecodes : Prop :=
  ∀ (i : Instr) (rest : List Byte), i.wellFormed = true →
    decodeBytes (encodeBytes [i] ++ rest) = .ok (i, rest) ∧
    encodeBytes [i] = [(encode i).setWidth 8, (encode i >>> 8).setWidth 8, (encode i >>> 16).setWidth 8,
      (encode i >>> 24).setWidth 8]

/-! ## The step -/

/-- A Running machine whose schedule lets the DSEQ move runs the instruction that the word at pc decodes to; around `exec`
the step takes the schedule's entry and nothing else (R200). -/
def Obligations.StepRunsTheDecodedInstruction : Prop :=
  ∀ (s : State) (w : InstrWord) (i : Instr), s.dseq.status = .running → (s.sched = [] ∨ ∃ es, s.sched = .dseq :: es) →
    s.prog[s.dseq.pc]? = some w → decode w = .ok i → step s = exec i { s with sched := s.sched.tail }

/-- The fetch faults: pc past the program, and a word that decodes to no instruction (R23, R87, R200, R221). Only the status
changes, beside the schedule's entry. -/
def Obligations.FetchFaultsAreRecorded : Prop :=
  ∀ s : State, s.dseq.status = .running → (s.sched = [] ∨ ∃ es, s.sched = .dseq :: es) →
    (s.prog.length ≤ s.dseq.pc →
      step s = .next { s with sched := s.sched.tail, dseq := { s.dseq with status := .faulted (.pcRange s.dseq.pc) } }) ∧
    (∀ w e, s.prog[s.dseq.pc]? = some w → decode w = .error e →
      step s = .next { s with sched := s.sched.tail, dseq := { s.dseq with status := .faulted (.illegalOp s.dseq.pc w) } })

/-- Faulted and Refused are terminal: no agent's step is enabled, and the step stops with the recorded reason (R26, R220). -/
def Obligations.FaultedAndRefusedAreTerminal : Prop :=
  (∀ s f, s.dseq.status = .faulted f → step s = .fault f ∧ ∀ e t, ¬ Transition s e t) ∧
  (∀ s r, s.dseq.status = .refused r → step s = .refused r ∧ ∀ e t, ¬ Transition s e t)

/-- After HALT the DSEQ takes no step: where the schedule lets it move, nothing but the schedule changes (R204; that the
machine then stutters is the model's choice, log 4). -/
def Obligations.HaltedDriverTakesNoStep : Prop :=
  ∀ s : State, s.dseq.status = .halted → (s.sched = [] ∨ ∃ es, s.sched = .dseq :: es) →
    step s = .next { s with sched := s.sched.tail } ∧ ∀ t, ¬ Transition s .dseq t

/-- The step function and the interleaving semantics agree: a step is a transition of the scheduled agent, or leaves all but
the schedule as it was; and every transition of every agent is a step under the schedule that names it (R70, R225; the
schedule is the model's own, log 2). -/
def Obligations.StepsAreTheInterleavedTransitions : Prop :=
  (∀ s t, step s = .next t → t = { s with sched := s.sched.tail } ∨
    ∃ e, (s.sched.head? = some e ∨ s.sched = [] ∧ e = .dseq) ∧ Transition { s with sched := s.sched.tail } e t) ∧
  (∀ s e t, Transition s e t → step { s with sched := e :: s.sched } = .next t)

/-! ## Reads -/

/-- RD returns each register's value as the read table gives it and clears IFG0 exactly for ADC_MEM0; an offset outside the
table is refused with no other change (R106). -/
def Obligations.ReadTable : Prop :=
  (∀ (s : State) (dst : VReg), ∀ p ∈ ([
      (0x00#8, s.pin.out.setWidth 16, s.conv.ifg0), (0x02#8, s.pin.dir.setWidth 16, s.conv.ifg0),
      (0x04#8, s.pin.sel0.setWidth 16, s.conv.ifg0), (0x06#8, s.pin.sel1.setWidth 16, s.conv.ifg0),
      (0x10#8, s.conv.sht.setWidth 16 <<< 8 ||| (BitVec.ofBool s.conv.on).setWidth 16 <<< 4 |||
        (BitVec.ofBool s.conv.pending).setWidth 16 <<< 1 ||| (BitVec.ofBool s.conv.enc).setWidth 16, s.conv.ifg0),
      (0x12#8, (BitVec.ofBool s.conv.shp).setWidth 16, s.conv.ifg0), (0x14#8, s.conv.res.setWidth 16 <<< 4, s.conv.ifg0),
      (0x16#8, s.conv.inch.setWidth 16, s.conv.ifg0), (0x18#8, s.conv.result, false),
      (0x1A#8, (BitVec.ofBool s.conv.ifg0).setWidth 16, s.conv.ifg0),
      (0x20#8, s.pulse.tssel.setWidth 16 <<< 8 ||| s.pulse.mc.setWidth 16 <<< 4, s.conv.ifg0),
      (0x22#8, s.pulse.count, s.conv.ifg0), (0x24#8, s.pulse.period, s.conv.ifg0),
      (0x26#8, s.pulse.outmod.setWidth 16 <<< 5, s.conv.ifg0), (0x28#8, s.pulse.ccr1, s.conv.ifg0),
      (0x30#8, (BitVec.ofBool s.sys.pinLock).setWidth 16 <<< 1 ||| (BitVec.ofBool s.sys.wdtHold).setWidth 16, s.conv.ifg0)
      ] : List (RegOff × Word × Bool)),
    exec (.rd dst p.1) s = .next { s with
      dseq := { s.dseq with v := s.dseq.v.set dst p.2.1, pc := s.dseq.pc + 1 }, conv := { s.conv with ifg0 := p.2.2 } }) ∧
  (∀ (s : State) (dst : VReg) (off : RegOff),
    off ∉ [0x00#8, 0x02#8, 0x04#8, 0x06#8, 0x10#8, 0x12#8, 0x14#8, 0x16#8, 0x18#8, 0x1A#8, 0x20#8, 0x22#8, 0x24#8, 0x26#8,
      0x28#8, 0x30#8] →
    exec (.rd dst off) s = .next { s with dseq := { s.dseq with status := .refused (.unmapped s.dseq.pc off) } })

/-- POLL reads the register once, with the read's side effect, and falls through exactly if a masked bit is set (R202). -/
def Obligations.PollFallsThroughOnAMaskedBit : Prop :=
  ∀ (s : State) (r : Reg) (mask : Word),
    exec (.poll r.off mask) s = .next { s with
      dseq := { s.dseq with pc := if stored r s &&& mask = 0 then s.dseq.pc else s.dseq.pc + 1 }
      conv := { s.conv with ifg0 := s.conv.ifg0 && r != .adcMem0 } }

/-- An access to an offset that is not mapped, odd offsets among them, is refused before any state changes (R65, R222). -/
def Obligations.UnmappedAccessIsRefused : Prop :=
  ∀ (s : State) (off : RegOff),
    off ∉ [0x00#8, 0x02#8, 0x04#8, 0x06#8, 0x10#8, 0x12#8, 0x14#8, 0x16#8, 0x18#8, 0x1A#8, 0x20#8, 0x22#8, 0x24#8, 0x26#8,
      0x28#8, 0x30#8] →
    ∀ i : Instr, (∃ x, i = .wr off x) ∨ (∃ m, i = .bis off m) ∨ (∃ m, i = .bic off m) ∨ (∃ d, i = .rd d off) ∨
        (∃ m, i = .poll off m) ∨ (∃ src x, i = .wrv off src ∧ s.readV src = some x) →
      exec i s = .next { s with dseq := { s.dseq with status := .refused (.unmapped s.dseq.pc off) } }

/-! ## Writes: the common checks -/

/-- Every write to ADC_MEM0, ADC_IFG and TMR_R is refused, whatever its value (R109). -/
def Obligations.ReadOnlyRegistersRefuseWrites : Prop :=
  ∀ (s : State) (i : Instr) (r : Reg) (x : Word), r = .adcMem0 ∨ r = .adcIfg ∨ r = .tmrR → Writes i r x s →
    exec i s = .next { s with dseq := { s.dseq with status := .refused (.readonlyWrite s.dseq.pc r.off) } }

/-- A write whose value sets a bit outside the register's defined-bits mask is refused (R27, R108). -/
def Obligations.ReservedBitsAreRefused : Prop :=
  ∀ (s : State) (i : Instr) (x : Word), ∀ p ∈ ([
      (.gpioOut, 0x0007), (.gpioDir, 0x0007), (.gpioSel0, 0x0007), (.gpioSel1, 0x0007), (.adcCtl0, 0x0F13),
      (.adcCtl1, 0x0001), (.adcCtl2, 0x0030), (.adcMctl0, 0x000F), (.tmrCtl, 0x0334), (.tmrCcr0, 0xFFFF),
      (.tmrCctl1, 0x00E0), (.tmrCcr1, 0xFFFF), (.sysCtl, 0x0003)] : List (Reg × Word)),
    Writes i p.1 x s → x &&& ~~~p.2 ≠ 0 →
    exec i s = .next { s with dseq := { s.dseq with status := .refused (.reservedBits s.dseq.pc p.1.off x) } }

/-- A write that is admitted is read back: the register's stored value is then the value written, but for TCLR, which
reads 0 (R106, R110, R140, R170). -/
def Obligations.AdmittedWriteIsReadBack : Prop :=
  ∀ (s t : State) (i : Instr) (r : Reg) (x : Word), Writes i r x s → exec i s = .next t → s.dseq.status = .running →
    t.dseq.status = .running → stored r t = if r = .tmrCtl then x &&& 0xFFFB#16 else x

/-- A write leaves every other register's stored value: only a TMR_CTL write with TCLR set changes another register, TMR_R
(R107, R172). -/
def Obligations.WriteLeavesOtherRegisters : Prop :=
  ∀ (s t : State) (i : Instr) (r q : Reg) (x : Word), Writes i r x s → exec i s = .next t → q ≠ r →
    stored q t = if q = .tmrR ∧ r = .tmrCtl ∧ x.getLsbD 2 = true ∧ t.dseq.pc ≠ s.dseq.pc then 0 else stored q s

/-- A write instruction changes no unit but the one its register belongs to, save that a pin write may clear conv_ok; it
changes no driver register, and neither the program, the parameters nor the schedule (R22, R25, R107, R120, R125). -/
def Obligations.WriteFrame : Prop :=
  ∀ (s t : State) (i : Instr) (r : Reg) (x : Word), Writes i r x s → exec i s = .next t →
    t.dseq.v = s.dseq.v ∧ t.prog = s.prog ∧ t.params = s.params ∧ t.sched = s.sched ∧
    (r.unit ≠ .pin → t.pin = s.pin) ∧ (r.unit ≠ .pulse → t.pulse = s.pulse) ∧ (r.unit ≠ .system → t.sys = s.sys) ∧
    (r.unit ≠ .conversion → { t.conv with ok := s.conv.ok } = s.conv) ∧
    (r.unit ≠ .conversion → r.unit ≠ .pin → t.conv = s.conv)

/-- BIC is never refused for reserved bits, never starts a conversion and never clears the counter (R103). -/
def Obligations.BicHasNoActionAndNoReservedBits : Prop :=
  ∀ (s t : State) (r : Reg) (mask : Word), exec (.bic r.off mask) s = .next t →
    t.pulse.count = s.pulse.count ∧ t.conv.pending = s.conv.pending ∧
    (s.dseq.status = .running → ∀ pc off x, t.dseq.status ≠ .refused (.reservedBits pc off x))

/-- Setting bits that are already set changes nothing: an admitted BIS done again leaves the same state but for pc, unless it
starts a conversion (R102). -/
def Obligations.BisTwiceIsBisOnce : Prop :=
  ∀ (s t : State) (r : Reg) (mask : Word), (r = .adcCtl0 → mask.getLsbD 1 = false) →
    exec (.bis r.off mask) s = .next t → s.dseq.status = .running → t.dseq.status = .running →
    exec (.bis r.off mask) t = .next { t with dseq := { t.dseq with pc := t.dseq.pc + 1 } }

/-! ## Writes: each register's own rule -/

/-- WR, WRV, BIS and BIC of GPIO_OUT run to completion: the three bits take the value and nothing else changes; the write is
never refused (R121). -/
def Obligations.GpioOutWrites : Prop :=
  ∀ (s : State) (x : Word) (src : VReg), x &&& 0xFFF8#16 = 0 →
    exec (.wr 0x00 x) s = .next { s with
      dseq := { s.dseq with pc := s.dseq.pc + 1 }, pin := { s.pin with out := x.setWidth 3 } } ∧
    (s.readV src = some x → exec (.wrv 0x00 src) s = .next { s with
      dseq := { s.dseq with pc := s.dseq.pc + 1 }, pin := { s.pin with out := x.setWidth 3 } }) ∧
    exec (.bis 0x00 x) s = .next { s with
      dseq := { s.dseq with pc := s.dseq.pc + 1 }, pin := { s.pin with out := s.pin.out ||| x.setWidth 3 } } ∧
    (∀ mask : Word, exec (.bic 0x00 mask) s = .next { s with
      dseq := { s.dseq with pc := s.dseq.pc + 1 }, pin := { s.pin with out := s.pin.out &&& ~~~(mask.setWidth 3) } })

/-- WR, WRV, BIS and BIC of GPIO_DIR run to completion: the three bits take the value and nothing else changes; the write is
never refused (R122). -/
def Obligations.GpioDirWrites : Prop :=
  ∀ (s : State) (x : Word) (src : VReg), x &&& 0xFFF8#16 = 0 →
    exec (.wr 0x02 x) s = .next { s with
      dseq := { s.dseq with pc := s.dseq.pc + 1 }, pin := { s.pin with dir := x.setWidth 3 } } ∧
    (s.readV src = some x → exec (.wrv 0x02 src) s = .next { s with
      dseq := { s.dseq with pc := s.dseq.pc + 1 }, pin := { s.pin with dir := x.setWidth 3 } }) ∧
    exec (.bis 0x02 x) s = .next { s with
      dseq := { s.dseq with pc := s.dseq.pc + 1 }, pin := { s.pin with dir := s.pin.dir ||| x.setWidth 3 } } ∧
    (∀ mask : Word, exec (.bic 0x02 mask) s = .next { s with
      dseq := { s.dseq with pc := s.dseq.pc + 1 }, pin := { s.pin with dir := s.pin.dir &&& ~~~(mask.setWidth 3) } })

/-- A write of GPIO_SEL0 or GPIO_SEL1 sets the three bits, is never refused, and clears conv_ok exactly if a conversion is
pending and Pin B, analog before, is no longer selected (R123, R124, R125, R127; "makes false" is read by log 10). -/
def Obligations.GpioSelectWrites : Prop :=
  ∀ (s : State) (i : Instr) (x : Word), Fits .gpioSel0 x →
    (Writes i .gpioSel0 x s → exec i s = .next { s with
      dseq := { s.dseq with pc := s.dseq.pc + 1 }
      pin := { s.pin with sel0 := x.setWidth 3 }
      conv := { s.conv with ok := s.conv.ok && !(s.conv.pending && !s.sys.pinLock && s.pin.sel1.getLsbD 1 &&
        s.pin.sel0.getLsbD 1 && !x.getLsbD 1) } }) ∧
    (Writes i .gpioSel1 x s → exec i s = .next { s with
      dseq := { s.dseq with pc := s.dseq.pc + 1 }
      pin := { s.pin with sel1 := x.setWidth 3 }
      conv := { s.conv with ok := s.conv.ok && !(s.conv.pending && !s.sys.pinLock && s.pin.sel1.getLsbD 1 &&
        s.pin.sel0.getLsbD 1 && !x.getLsbD 1) } })

/-- The write rule of ADC_CTL0: busy, then locked, then start without enable, else the three fields and the trigger, whose
conv_ok is ADC_OK of the state after the three writes; SC reads back as conv_pending (R140). -/
def Obligations.AdcCtl0WriteRule : Prop :=
  (∀ (s : State) (i : Instr) (x : Word), Writes i .adcCtl0 x s → Fits .adcCtl0 x →
    exec i s = .next (
      if s.conv.pending = true then { s with dseq := { s.dseq with status := .refused (.adcBusy s.dseq.pc 0x10) } }
      else if s.conv.enc = true ∧ (x.getLsbD 4 ≠ s.conv.on ∨ x.extractLsb' 8 4 ≠ s.conv.sht) then
        { s with dseq := { s.dseq with status := .refused (.adcCfgLocked s.dseq.pc 0x10 x) } }
      else if x.getLsbD 1 = true ∧ x.getLsbD 0 = false then
        { s with dseq := { s.dseq with status := .refused (.adcScNoEnc s.dseq.pc x) } }
      else
        let c := { s.conv with enc := x.getLsbD 0, on := x.getLsbD 4, sht := x.extractLsb' 8 4 }
        { s with
          dseq := { s.dseq with pc := s.dseq.pc + 1 }
          conv := if x.getLsbD 1 = true then { c with pending := true, ok := adcOk { s with conv := c } } else c })) ∧
  (∀ s : State, (stored .adcCtl0 s).getLsbD 1 = s.conv.pending)

/-- While a conversion is pending, every write to the four configuration registers of the conversion unit is refused and no
state changes: with REF_ADC_BUSY, or, as R107 and R224 order the checks, with REF_RESERVED_BITS where the value sets a reserved
bit (R107, R141, R224). -/
def Obligations.PendingConversionRefusesConfiguration : Prop :=
  ∀ (s : State) (i : Instr) (r : Reg) (x : Word), r = .adcCtl0 ∨ r = .adcCtl1 ∨ r = .adcCtl2 ∨ r = .adcMctl0 →
    s.conv.pending = true → Writes i r x s →
    exec i s = .next { s with dseq := { s.dseq with status := .refused (
      if x &&& ~~~r.definedMask = 0 then .adcBusy s.dseq.pc r.off else .reservedBits s.dseq.pc r.off x) } }

/-- While ENC is set and no conversion is pending, a write that would change ON, SHT, SHP, RES or INCH is refused with
REF_ADC_CFG_LOCKED, and one that leaves the five fields at their values is admitted (R142). -/
def Obligations.EnabledConverterLocksItsConfiguration : Prop :=
  ∀ (s : State) (i : Instr) (r : Reg) (x : Word), s.conv.pending = false → s.conv.enc = true → Writes i r x s → Fits r x →
    (r = .adcCtl0 ∧ (x.getLsbD 4 ≠ s.conv.on ∨ x.extractLsb' 8 4 ≠ s.conv.sht) ∨ r = .adcCtl1 ∧ x.getLsbD 0 ≠ s.conv.shp ∨
        r = .adcCtl2 ∧ x.extractLsb' 4 2 ≠ s.conv.res ∨ r = .adcMctl0 ∧ x.extractLsb' 0 4 ≠ s.conv.inch →
      exec i s = .next { s with dseq := { s.dseq with status := .refused (.adcCfgLocked s.dseq.pc r.off x) } }) ∧
    (r = .adcCtl1 ∧ x.getLsbD 0 = s.conv.shp ∨ r = .adcCtl2 ∧ x.extractLsb' 4 2 = s.conv.res ∧ s.conv.res ≠ 0b11 ∨
        r = .adcMctl0 ∧ x.extractLsb' 0 4 = s.conv.inch →
      exec i s = .next { s with dseq := { s.dseq with pc := s.dseq.pc + 1 } })

/-- The write rules of ADC_CTL1, ADC_CTL2 and ADC_MCTL0: busy, then locked, then, for ADC_CTL2, the reserved resolution code;
otherwise the field takes the value (R144, R145, R146). -/
def Obligations.AdcConfigurationWriteRules : Prop :=
  ∀ (s : State) (i : Instr) (x : Word),
    (Writes i .adcCtl1 x s → Fits .adcCtl1 x → exec i s = .next (
      if s.conv.pending = true then { s with dseq := { s.dseq with status := .refused (.adcBusy s.dseq.pc 0x12) } }
      else if s.conv.enc = true ∧ x.getLsbD 0 ≠ s.conv.shp then
        { s with dseq := { s.dseq with status := .refused (.adcCfgLocked s.dseq.pc 0x12 x) } }
      else { s with dseq := { s.dseq with pc := s.dseq.pc + 1 }, conv := { s.conv with shp := x.getLsbD 0 } })) ∧
    (Writes i .adcCtl2 x s → Fits .adcCtl2 x → exec i s = .next (
      if s.conv.pending = true then { s with dseq := { s.dseq with status := .refused (.adcBusy s.dseq.pc 0x14) } }
      else if s.conv.enc = true ∧ x.extractLsb' 4 2 ≠ s.conv.res then
        { s with dseq := { s.dseq with status := .refused (.adcCfgLocked s.dseq.pc 0x14 x) } }
      else if x.extractLsb' 4 2 = 0b11 then
        { s with dseq := { s.dseq with status := .refused (.fieldCode s.dseq.pc 0x14 x) } }
      else { s with dseq := { s.dseq with pc := s.dseq.pc + 1 }, conv := { s.conv with res := x.extractLsb' 4 2 } })) ∧
    (Writes i .adcMctl0 x s → Fits .adcMctl0 x → exec i s = .next (
      if s.conv.pending = true then { s with dseq := { s.dseq with status := .refused (.adcBusy s.dseq.pc 0x16) } }
      else if s.conv.enc = true ∧ x.extractLsb' 0 4 ≠ s.conv.inch then
        { s with dseq := { s.dseq with status := .refused (.adcCfgLocked s.dseq.pc 0x16 x) } }
      else { s with dseq := { s.dseq with pc := s.dseq.pc + 1 }, conv := { s.conv with inch := x.extractLsb' 0 4 } }))

/-- PinB_analog is both selection stages and released pins, and ADC_OK is the conjunction of the seven conditions (R127,
R149). -/
def Obligations.AdcOkIsTheConfiguration : Prop :=
  ∀ s : State,
    (pinBAnalog s = true ↔ s.pin.sel0.getLsbD 1 = true ∧ s.pin.sel1.getLsbD 1 = true ∧ s.sys.pinLock = false) ∧
    (adcOk s = true ↔ s.conv.on = true ∧ s.conv.sht = 2 ∧ s.conv.shp = true ∧ s.conv.res = 0b10 ∧
      s.conv.inch = s.params.adcChB ∧ pinBAnalog s = true ∧ s.params.clocksOk = true)

/-- The write rule of TMR_CTL: a reserved MC code is refused; otherwise TSSEL and MC take the value, and TCLR clears the
counter and latches the compare buffer (R170, R172). -/
def Obligations.TmrCtlWriteRule : Prop :=
  ∀ (s : State) (i : Instr) (x : Word), Writes i .tmrCtl x s → Fits .tmrCtl x →
    exec i s = .next (
      if x.extractLsb' 4 2 = 0b10 ∨ x.extractLsb' 4 2 = 0b11 then
        { s with dseq := { s.dseq with status := .refused (.fieldCode s.dseq.pc 0x20 x) } }
      else { s with
        dseq := { s.dseq with pc := s.dseq.pc + 1 }
        pulse := { s.pulse with
          tssel := x.extractLsb' 8 2, mc := x.extractLsb' 4 2
          count := if x.getLsbD 2 = true then 0 else s.pulse.count
          cmpAct := if x.getLsbD 2 = true then s.pulse.ccr1 else s.pulse.cmpAct } })

/-- The write rule of TMR_CCR0: a period below the count is refused; otherwise it takes effect at once, whether the counter
is stopped or running (R174). -/
def Obligations.PeriodWriteRule : Prop :=
  ∀ (s : State) (i : Instr) (x : Word), Writes i .tmrCcr0 x s →
    exec i s = .next (
      if x.toNat < s.pulse.count.toNat then
        { s with dseq := { s.dseq with status := .refused (.periodBelowCount s.dseq.pc x s.pulse.count) } }
      else { s with dseq := { s.dseq with pc := s.dseq.pc + 1 }, pulse := { s.pulse with period := x } })

/-- The write rule of TMR_CCTL1: only the codes 0b000 and 0b111 are admitted (R175). -/
def Obligations.OutmodWriteRule : Prop :=
  ∀ (s : State) (i : Instr) (x : Word), Writes i .tmrCctl1 x s → Fits .tmrCctl1 x →
    exec i s = .next (
      if x.extractLsb' 5 3 = 0b000 ∨ x.extractLsb' 5 3 = 0b111 then
        { s with dseq := { s.dseq with pc := s.dseq.pc + 1 }, pulse := { s.pulse with outmod := x.extractLsb' 5 3 } }
      else { s with dseq := { s.dseq with status := .refused (.fieldCode s.dseq.pc 0x26 x) } })

/-- The write rule of TMR_CCR1: any value is admitted, with no bounds check; CMP_ACT takes it too exactly if the counter is
stopped (R176). -/
def Obligations.CompareWriteRule : Prop :=
  ∀ (s : State) (i : Instr) (x : Word), Writes i .tmrCcr1 x s →
    exec i s = .next { s with
      dseq := { s.dseq with pc := s.dseq.pc + 1 }
      pulse := { s.pulse with ccr1 := x, cmpAct := if s.pulse.mc = 0b00 then x else s.pulse.cmpAct } }

/-- The write rule of SYS_CTL: the watchdog hold cannot be cleared and the pin lock cannot be set again (R234). -/
def Obligations.SysCtlWriteRule : Prop :=
  ∀ (s : State) (i : Instr) (x : Word), Writes i .sysCtl x s → Fits .sysCtl x →
    exec i s = .next (
      if s.sys.wdtHold = true ∧ x.getLsbD 0 = false ∨ s.sys.pinLock = false ∧ x.getLsbD 1 = true then
        { s with dseq := { s.dseq with status := .refused (.sysRelock s.dseq.pc x) } }
      else { s with
        dseq := { s.dseq with pc := s.dseq.pc + 1 }, sys := { wdtHold := x.getLsbD 0, pinLock := x.getLsbD 1 } })

/-! ## Driver registers, arithmetic and control -/

/-- DIVU writes the floor of the quotient and advances pc; the source is read before the write, so it may be the destination
(R201). -/
def Obligations.DivuWritesTheQuotient : Prop :=
  ∀ (s : State) (dst src : VReg) (d x : Word), d ≠ 0 → s.readV src = some x →
    exec (.divu dst src d) s = .next { s with
      dseq := { s.dseq with v := s.dseq.v.set dst (BitVec.ofNat 16 (x.toNat / d.toNat)), pc := s.dseq.pc + 1 } }

/-- WRV and DIVU of an unwritten driver register raise FLT_UNWRITTEN_VREG, WRV before any check of its target (R21, R221,
R224). -/
def Obligations.UnwrittenSourceFaults : Prop :=
  ∀ (s : State) (src : VReg), s.readV src = none →
    (∀ off, exec (.wrv off src) s =
      .next { s with dseq := { s.dseq with status := .faulted (.unwrittenVreg s.dseq.pc src) } }) ∧
    (∀ dst d, d ≠ 0 → exec (.divu dst src d) s =
      .next { s with dseq := { s.dseq with status := .faulted (.unwrittenVreg s.dseq.pc src) } })

/-- JMP sets pc to its target and changes nothing else, whatever the program's length; a target past the program faults at the
next fetch, not at the JMP (R203). -/
def Obligations.JmpSetsPc : Prop :=
  ∀ (s : State) (target : Word),
    exec (.jmp target) s = .next { s with dseq := { s.dseq with pc := target.toNat } } ∧
    ∀ t, s.dseq.status = .running → s.sched = [] → s.prog.length ≤ target.toNat → exec (.jmp target) s = .next t →
      step t = .next { t with dseq := { t.dseq with status := .faulted (.pcRange target.toNat) } }

/-- HALT sets the status to Halted and changes nothing else; from then on the DSEQ takes no step, while the three other agents
still may, each under its own condition (R204). -/
def Obligations.HaltStopsTheDriver : Prop :=
  (∀ s : State, exec .halt s = .next { s with dseq := { s.dseq with status := .halted } }) ∧
  ∀ s : State, s.dseq.status = .halted → (∀ t, ¬ Transition s .dseq t) ∧
    (s.conv.pending = true → ∃ r t, Transition s (.complete r) t) ∧
    (s.pulse.mc = 0b01 → ∃ t, Transition s .tick t) ∧ (s.sys.wdtHold = false → ∀ d, ∃ t, Transition s (.watchdog d) t)

/-- How each instruction moves pc (R24). -/
def Obligations.PcOfEachInstruction : Prop :=
  ∀ (s t : State) (i : Instr), s.dseq.status = .running → exec i s = .next t →
    (t.dseq.status = .running ∨ t.dseq.status = .halted →
      (∀ off x, i = .wr off x ∨ i = .bis off x ∨ i = .bic off x → t.dseq.pc = s.dseq.pc + 1) ∧
      (∀ off v, i = .wrv off v ∨ i = .rd v off → t.dseq.pc = s.dseq.pc + 1) ∧
      (∀ dst src d, i = .divu dst src d → t.dseq.pc = s.dseq.pc + 1) ∧
      (∀ r mask, i = .poll (Reg.off r) mask → t.dseq.pc = if stored r s &&& mask = 0 then s.dseq.pc else s.dseq.pc + 1) ∧
      (∀ target, i = .jmp target → t.dseq.pc = target.toNat) ∧
      (i = .halt → t.dseq.pc = s.dseq.pc ∧ t.dseq.status = .halted)) ∧
    (t.dseq.status ≠ .running → t.dseq.status ≠ .halted → t.dseq.pc = s.dseq.pc)

/-- A raised fault or refusal sets the status and changes nothing else: the raising instruction has no partial effect
(R220). -/
def Obligations.RaisingChangesOnlyTheStatus : Prop :=
  ∀ (s t : State) (i : Instr), s.dseq.status = .running → exec i s = .next t → t.dseq.status ≠ .running →
    t.dseq.status ≠ .halted → t = { s with dseq := { s.dseq with status := t.dseq.status } }

/-- Only RD and DIVU write a driver register, and only their destination (R22). -/
def Obligations.DriverRegistersWrittenOnlyByRdAndDivu : Prop :=
  ∀ (s t : State) (i : Instr) (v : VReg), exec i s = .next t → t.readV v ≠ s.readV v →
    (∃ off, i = .rd v off) ∨ (∃ src d, i = .divu v src d)

/-- Only DIVU and WRV read a driver register: every other instruction has the same effect whatever the four hold (R22). -/
def Obligations.DriverRegistersReadOnlyByDivuAndWrv : Prop :=
  ∀ (s t t' : State) (i : Instr) (v : VRegs), (∀ dst src d, i ≠ .divu dst src d) → (∀ off src, i ≠ .wrv off src) →
    exec i s = .next t → exec i { s with dseq := { s.dseq with v := v } } = .next t' →
    { t' with dseq := { t'.dseq with v := t.dseq.v } } = t ∧
    ∀ dst off, i = .rd dst off → t.dseq.status = .running → t'.readV dst = t.readV dst

/-! ## The agents -/

/-- The complete step: enabled while a conversion is pending and the machine Runs or is Halted, for exactly the results the
draw admits; it sets RESULT and IFG0 and ends the conversion (R150, R151). That conv_ok keeps its value is the model's reading
(log 17). -/
def Obligations.CompleteStep : Prop :=
  ∀ (s t : State) (r : Word), Transition s (.complete r) t ↔
    (s.dseq.status = .running ∨ s.dseq.status = .halted) ∧ s.conv.pending = true ∧ (s.conv.ok = true → r.toNat ≤ 4095) ∧
    t = { s with conv := { s.conv with result := r, ifg0 := true, pending := false } }

/-- The tick step (R178). -/
def Obligations.TickStep : Prop :=
  ∀ s t : State, Transition s .tick t ↔
    (s.dseq.status = .running ∨ s.dseq.status = .halted) ∧ s.pulse.mc = 0b01 ∧
    t = { s with pulse := if s.pulse.period.toNat ≤ s.pulse.count.toNat then
        { s.pulse with count := 0, cmpAct := s.pulse.ccr1 }
      else { s.pulse with count := s.pulse.count + 1 } }

/-- The watchdog's step: enabled while the watchdog is not held and the machine Runs or is Halted; its effect is a reset with
any draws, and it never carries fairness (R51, R228, R240). -/
def Obligations.WatchdogStep : Prop :=
  (∀ (s t : State) (d : ResetDraws), Transition s (.watchdog d) t ↔
    (s.dseq.status = .running ∨ s.dseq.status = .halted) ∧ s.sys.wdtHold = false ∧
    t = { dseq := ⟨⟨none, none, none, none⟩, 0, .running⟩, prog := s.prog, pin := ⟨d.out, 0, 0, 0⟩
          conv := ⟨false, false, 0, false, d.res, 0, d.mem0, false, false, false⟩, pulse := ⟨0, 0, 0, 0, 0, 0, 0⟩
          sys := ⟨false, true⟩, params := s.params, sched := s.sched }) ∧
  (∀ s : State, fairlyEnabled s .wdt = false)

/-- The state after power-on: every component of the reset table that is no draw has its value (R51). The empty program and
schedule are the model's (log 2, 9). -/
def Obligations.ResetValues : Prop :=
  (∀ r, State.reset.readV r = none) ∧ State.reset.dseq.pc = 0 ∧ State.reset.dseq.status = .running ∧
  State.reset.pin.dir = 0 ∧ State.reset.pin.sel0 = 0 ∧ State.reset.pin.sel1 = 0 ∧
  stored .adcCtl0 State.reset = 0 ∧ stored .adcCtl1 State.reset = 0 ∧ stored .adcMctl0 State.reset = 0 ∧
  stored .adcIfg State.reset = 0 ∧ State.reset.conv.pending = false ∧ State.reset.conv.ok = false ∧
  stored .tmrCtl State.reset = 0 ∧ stored .tmrR State.reset = 0 ∧ stored .tmrCcr0 State.reset = 0 ∧
  stored .tmrCctl1 State.reset = 0 ∧ stored .tmrCcr1 State.reset = 0 ∧ State.reset.pulse.cmpAct = 0 ∧
  State.reset.sys.wdtHold = false ∧ State.reset.sys.pinLock = true ∧ State.reset.prog = [] ∧ State.reset.sched = []

/-- The pulse unit's and the conversion unit's steps may come in either order, with the same state after both (R225). -/
def Obligations.TickAndCompleteCommute : Prop :=
  ∀ (s a b : State) (r : Word),
    (Transition s .tick a → Transition a (.complete r) b → ∃ c, Transition s (.complete r) c ∧ Transition c .tick b) ∧
    (Transition s (.complete r) a → Transition a .tick b → ∃ c, Transition s .tick c ∧ Transition c (.complete r) b)

/-! ## Whole-machine rules -/

/-- No step changes the program, nor the parameters of the run (R25, R240, R243; the parameters are a field of State as log 6 has
it). -/
def Obligations.ProgramAndParametersAreFixed : Prop :=
  ∀ s t : State, step s = .next t → t.prog = s.prog ∧ t.params = s.params

/-- Only the complete step sets IFG0 or changes RESULT, save a reset; only a read of ADC_MEM0 clears IFG0, save a reset (R37,
R38, R150). -/
def Obligations.CompletionFlagAndResult : Prop :=
  ∀ (s t : State) (e : Event), Transition s e t →
    (t.conv.ifg0 = true → s.conv.ifg0 = false → ∃ r, e = .complete r) ∧
    (t.conv.result ≠ s.conv.result → (∃ r, e = .complete r) ∨ (∃ d, e = .watchdog d)) ∧
    (t.conv.ifg0 = false → s.conv.ifg0 = true → (∃ d, e = .watchdog d) ∨
      e = .dseq ∧ ((∃ dst, fetch s = .ok (.rd dst 0x18)) ∨ ∃ mask, fetch s = .ok (.poll 0x18 mask)))

/-- TMR_R changes only by a tick, by a TMR_CTL write with TCLR set, which clears it, and by a reset (R41, R172, R173). -/
def Obligations.CounterChangesOnlyByTickClearAndReset : Prop :=
  ∀ (s t : State) (e : Event), Transition s e t → t.pulse.count ≠ s.pulse.count →
    e = .tick ∨ (∃ d, e = .watchdog d) ∨
    e = .dseq ∧ t.pulse.count = 0 ∧ ∃ i x, fetch s = .ok i ∧ Writes i .tmrCtl x s ∧ x.getLsbD 2 = true

/-- A period boundary, a tick at the period value or an admitted clear, gives CMP_ACT the compare buffer and puts the counter at
0; while the counter runs, CMP_ACT changes at no other time (R180), but for a watchdog reset (R51, R228, R240). -/
def Obligations.CompareLatchesOnlyAtABoundary : Prop :=
  ∀ (s t : State) (e : Event), Transition s e t →
    (e = .tick → s.pulse.period.toNat ≤ s.pulse.count.toNat → t.pulse.cmpAct = s.pulse.ccr1 ∧ t.pulse.count = 0) ∧
    (∀ i x, e = .dseq → fetch s = .ok i → Writes i .tmrCtl x s → x.getLsbD 2 = true → t.dseq.status = .running →
      t.pulse.cmpAct = s.pulse.ccr1 ∧ t.pulse.count = 0) ∧
    (s.pulse.mc = 0b01 → t.pulse.cmpAct ≠ s.pulse.cmpAct →
      (∃ d, e = .watchdog d) ∨ (e = .tick ∧ s.pulse.period.toNat ≤ s.pulse.count.toNat) ∨
      (e = .dseq ∧ ∃ i x, fetch s = .ok i ∧ Writes i .tmrCtl x s ∧ x.getLsbD 2 = true ∧ t.dseq.status = .running))

/-- The pin unit has no step of its own: it changes only through a write of one of its four registers, and through reset
(R120). -/
def Obligations.PinUnitChangesOnlyByItsWrites : Prop :=
  ∀ (s t : State) (e : Event), Transition s e t → t.pin ≠ s.pin →
    (∃ d, e = .watchdog d) ∨
    e = .dseq ∧ ∃ i r x, fetch s = .ok i ∧ Writes i r x s ∧
      (r = .gpioOut ∨ r = .gpioDir ∨ r = .gpioSel0 ∨ r = .gpioSel1)

/-- The bring-up controls change one way until a reset: a held watchdog stays held and never resets the machine, and released
pins stay released while it is held (R234). -/
def Obligations.BringUpIsOneWay : Prop :=
  ∀ (s t : State) (e : Event), Transition s e t → s.sys.wdtHold = true →
    t.sys.wdtHold = true ∧ (∀ d, e ≠ .watchdog d) ∧ (s.sys.pinLock = false → t.sys.pinLock = false)

/-- The invariant holds after power-on (R51, R182). -/
def Obligations.InvariantAtReset : Prop := Inv State.reset

/-- Every step keeps the invariant: the counter never passes the period, MC and OUTMOD hold no reserved code, and a pending
conversion with conv_ok is still configured as ADC_OK asks (R125, R141, R170, R175, R182). -/
def Obligations.EveryStepKeepsTheInvariant : Prop :=
  ∀ s t : State, Inv s → step s = .next t → Inv t

/-- In a weakly fair execution a conversion in progress with conv_ok eventually completes, with a result in [0, 4095] that is
then in ADC_MEM0 with IFG0 set, unless the watchdog resets the machine, or a DSEQ step clears conv_ok or stops the machine,
before that: at every moment up to the one named the conversion is in progress with conv_ok and nothing is faulted or refused
(R150, R151, R152; fairness as log 16 has it). -/
def Obligations.ConfiguredConversionCompletes : Prop :=
  ∀ (x : Execution) (n : Nat), x.fair → (x.state n).clean = true → (x.state n).conv.pending = true →
    (x.state n).conv.ok = true →
    ∃ m, n ≤ m ∧
      (∀ k, n ≤ k → k ≤ m →
        (x.state k).clean = true ∧ (x.state k).conv.pending = true ∧ (x.state k).conv.ok = true) ∧
      ((∃ r, x.event m = some (.complete r) ∧ r.toNat ≤ 4095 ∧ (x.state (m + 1)).conv.result = r ∧
          (x.state (m + 1)).conv.ifg0 = true ∧ (x.state (m + 1)).conv.pending = false) ∨
        (∃ d, x.event m = some (.watchdog d)) ∨
        (x.event m = some .dseq ∧ ((x.state (m + 1)).conv.ok = false ∨ (x.state (m + 1)).clean = false)))

/-- In a weakly fair execution a counter that stays in up mode on the configured clock wraps again and again: after every
moment there is one where it is 0 (R178, R179; fairness as log 16 has it). -/
def Obligations.FairCounterReturnsToZero : Prop :=
  ∀ (x : Execution) (n : Nat), x.fair →
    (∀ m, n ≤ m → (x.state m).pulse.mc = 0b01 ∧ (x.state m).pulse.tssel = (x.state m).params.tsselCode ∧
      (x.state m).params.clocksOk = true ∧ (x.state m).clean = true ∧ (x.state m).pulse.period = (x.state n).pulse.period) →
    ∃ m, n ≤ m ∧ (x.state m).pulse.count = 0

/-! ## Outputs -/

/-- The level of each pin, case by case over the raw selection bits and the three codes of PINC_FSEL (0b01, 0b10, 0b11, SEL1
first), and the physical levels each allows: Undriven and Undef leave it free (R6, R12, R28, R126, R128, R129). -/
def Obligations.WireLevels : Prop :=
  ∀ s : State,
    (s.sys.pinLock = true → ∀ x, wire s x = .undef) ∧
    (s.sys.pinLock = false → ∀ p ∈ ([(.a, 0), (.b, 1), (.c, 2)] : List (Pin × Nat)),
      s.pin.sel1.getLsbD p.2 = false → s.pin.sel0.getLsbD p.2 = false →
      wire s p.1 = if s.pin.dir.getLsbD p.2 = true then (if s.pin.out.getLsbD p.2 = true then .hi else .lo)
        else .undriven) ∧
    (s.sys.pinLock = false → s.pin.sel1.getLsbD 0 = true ∨ s.pin.sel0.getLsbD 0 = true → wire s .a = .undef) ∧
    (s.sys.pinLock = false → s.pin.sel1.getLsbD 1 = true → s.pin.sel0.getLsbD 1 = true → wire s .b = .undriven) ∧
    (s.sys.pinLock = false → s.pin.sel1.getLsbD 1 ≠ s.pin.sel0.getLsbD 1 → wire s .b = .undef) ∧
    (s.sys.pinLock = false → s.pin.sel1.getLsbD 2 = true ∨ s.pin.sel0.getLsbD 2 = true → wire s .c =
      if s.params.pincFsel = .sel0Only ∧ s.pin.sel1.getLsbD 2 = false ∧ s.pin.sel0.getLsbD 2 = true ∨
          s.params.pincFsel = .sel1Only ∧ s.pin.sel1.getLsbD 2 = true ∧ s.pin.sel0.getLsbD 2 = false ∨
          s.params.pincFsel = .both ∧ s.pin.sel1.getLsbD 2 = true ∧ s.pin.sel0.getLsbD 2 = true then
        (if s.pin.dir.getLsbD 2 = true then timerOut s.pulse else .undriven)
      else .undef) ∧
    (∀ w level, Wire.allowsLevel w level = true ↔ (w = .lo → level = false) ∧ (w = .hi → level = true))

/-- The pulse unit's output level (R181). -/
def Obligations.TimerOutputLevel : Prop :=
  ∀ u : PulseUnit,
    (u.outmod = 0b000 → timerOut u = .lo) ∧
    (u.outmod = 0b111 → u.mc = 0b01 → timerOut u = if u.count.toNat < u.cmpAct.toNat then .hi else .lo) ∧
    (u.outmod ≠ 0b000 → ¬ (u.outmod = 0b111 ∧ u.mc = 0b01) → timerOut u = .undef)

/-- Over the P + 1 ticks of a period in up mode under reset/set, the output is Hi first, for exactly min(c, P + 1) ticks, and
Lo for the rest, and the counter is at 0 again after them (R183). -/
def Obligations.HighTicksOfAPeriod : Prop :=
  ∀ u : PulseUnit, u.mc = 0b01 → u.outmod = 0b111 → u.count = 0 →
    timerTrace (u.period.toNat + 1) u =
      List.replicate (min u.cmpAct.toNat (u.period.toNat + 1)) .hi ++
        List.replicate (u.period.toNat + 1 - min u.cmpAct.toNat (u.period.toNat + 1)) .lo ∧
    (PulseUnit.tick^[u.period.toNat + 1] u).count = 0 ∧ (PulseUnit.tick^[u.period.toNat + 1] u).cmpAct = u.ccr1

/-! ## The integer actuation interface -/

/-- Actuation by an integer command: floor(command / 10) for commands from 0 to 65535, and NEG_CMD_POLICY for negative ones; the
value is written as TMR_CCR1's write rule says (R187, R188; log 13; larger commands are log 12's). R188 names no run status: that
the interface acts on a Halted machine as on a Running one, a refused command then replacing Halted by Refused, and that on a
Faulted or Refused machine nothing changes and the recorded reason is answered, are the model's choice (log 22). -/
def Obligations.IntegerActuation : Prop :=
  ∀ (s : State) (c : Int),
    (s.dseq.status = .running ∨ s.dseq.status = .halted →
      (0 ≤ c → c ≤ 65535 → actuateInt c s = .next (writeTmrCcr1 (BitVec.ofInt 16 (c / 10)) s)) ∧
      (c < 0 → s.params.negCmdPolicy = .refuse →
        actuateInt c s = .next { s with dseq := { s.dseq with status := .refused (.negCommand c) } }) ∧
      (c < 0 → s.params.negCmdPolicy = .unsigned →
        actuateInt c s = .next (writeTmrCcr1 (BitVec.ofInt 16 (c % 65536 / 10)) s)) ∧
      (c < 0 → s.params.negCmdPolicy = .cTrunc →
        actuateInt c s = .next (writeTmrCcr1 (BitVec.ofInt 16 (c.tdiv 10 % 65536)) s))) ∧
    (∀ f, s.dseq.status = .faulted f → actuateInt c s = .fault f) ∧
    (∀ r, s.dseq.status = .refused r → actuateInt c s = .refused r)
end

