-- ==== Sys2Proof/Laws/Decode.lean ====
section
/-! SUPPORT. The fields of an assembled word, a word from its fields, and the small lemmas of the decoder. -/

namespace Sys2Proof

@[simp] theorem opField_assemble (o : BitVec 4) (d s : BitVec 2) (a : RegOff) (m : Word) :
    opField (assemble o d s a m) = o := by
  unfold opField assemble
  ext i hi
  simp [show ¬ 28 + i < 16 by omega, show 28 + i - 28 = i by omega, show 28 + i < 32 by omega]
  simp [show 2 ≤ 28 + i - 26 by omega, show 2 ≤ 28 + i - 24 by omega, show 8 ≤ 28 + i - 16 by omega,
    show 16 ≤ 28 + i by omega, BitVec.getLsbD_of_ge, BitVec.getLsbD_eq_getElem, hi]

@[simp] theorem rdField_assemble (o : BitVec 4) (d s : BitVec 2) (a : RegOff) (m : Word) :
    rdField (assemble o d s a m) = d := by
  unfold rdField assemble
  ext i hi
  simp [show 26 + i < 28 by omega, show ¬ 26 + i < 24 by omega, show ¬ 26 + i < 16 by omega,
    show 26 + i - 26 = i by omega, show 26 + i < 32 by omega]
  simp [show 2 ≤ 26 + i - 24 by omega, show 8 ≤ 26 + i - 16 by omega, show 16 ≤ 26 + i by omega, BitVec.getLsbD_of_ge,
    BitVec.getLsbD_eq_getElem, hi]

@[simp] theorem rsField_assemble (o : BitVec 4) (d s : BitVec 2) (a : RegOff) (m : Word) :
    rsField (assemble o d s a m) = s := by
  unfold rsField assemble
  ext i hi
  simp [show 24 + i < 28 by omega, show 24 + i < 26 by omega, show ¬ 24 + i < 16 by omega,
    show 24 + i - 24 = i by omega, show 24 + i < 32 by omega]
  simp [show 8 ≤ 24 + i - 16 by omega, show 16 ≤ 24 + i by omega, BitVec.getLsbD_of_ge, BitVec.getLsbD_eq_getElem, hi]

@[simp] theorem addrField_assemble (o : BitVec 4) (d s : BitVec 2) (a : RegOff) (m : Word) :
    addrField (assemble o d s a m) = a := by
  unfold addrField assemble
  ext i hi
  simp [show 16 + i < 28 by omega, show 16 + i < 26 by omega, show 16 + i < 24 by omega, show 16 + i - 16 = i by omega,
    show 16 + i < 32 by omega]
  simp [BitVec.getLsbD_eq_getElem, hi]

@[simp] theorem immField_assemble (o : BitVec 4) (d s : BitVec 2) (a : RegOff) (m : Word) :
    immField (assemble o d s a m) = m := by
  unfold immField assemble
  ext i hi
  simp [show i < 28 by omega, show i < 26 by omega, show i < 24 by omega, show i < 16 by omega, show i < 32 by omega]

/-- A word is put together again from its five fields: they cover every bit (R81). -/
theorem assemble_fields (w : InstrWord) :
    assemble (opField w) (rdField w) (rsField w) (addrField w) (immField w) = w := by
  unfold assemble opField rdField rsField addrField immField
  ext i hi
  have : i < 16 ∨ 16 ≤ i ∧ i < 24 ∨ 24 ≤ i ∧ i < 26 ∨ 26 ≤ i ∧ i < 28 ∨ 28 ≤ i := by omega
  rcases this with h | h | h | h | h
  · simp [hi, h, show i < 24 by omega, show i < 26 by omega, show i < 28 by omega]
  · simp [hi, h, show ¬ i < 16 by omega, show i < 26 by omega, show i < 28 by omega, show i - 16 < 8 by omega,
      show 16 + (i - 16) = i by omega, BitVec.getLsbD_eq_getElem]
  · simp [hi, h, show ¬ i < 16 by omega, show i < 28 by omega, show ¬ i - 16 < 8 by omega, show i - 24 < 2 by omega,
      show 24 + (i - 24) = i by omega, BitVec.getLsbD_eq_getElem]
  · simp [hi, h, show ¬ i < 16 by omega, show ¬ i < 24 by omega, show ¬ i - 16 < 8 by omega, show ¬ i - 24 < 2 by omega,
      show i - 26 < 2 by omega, show 26 + (i - 26) = i by omega, BitVec.getLsbD_eq_getElem]
  · simp [hi, show ¬ i < 16 by omega, show ¬ i < 28 by omega, show ¬ i - 16 < 8 by omega, show ¬ i - 24 < 2 by omega,
      show ¬ i - 26 < 2 by omega, show i - 28 < 4 by omega, show 28 + (i - 28) = i by omega, BitVec.getLsbD_eq_getElem]

@[simp] theorem VReg.ofBits_toBits (r : VReg) : VReg.ofBits r.toBits = r := by cases r <;> rfl

@[simp] theorem VReg.toBits_ofBits (b : BitVec 2) : (VReg.ofBits b).toBits = b := by revert b; decide

/-- An instruction passes the must-be-zero check exactly if the listed fields are zero. -/
theorem withZeroFields_eq_ok (w : InstrWord) (i j : Instr) (fs : List WordField) :
    withZeroFields w i fs = .ok j ↔ i = j ∧ ∀ f ∈ fs, f.isZero w = true := by
  induction fs with
  | nil => simp [withZeroFields]
  | cons f fs ih =>
    simp only [withZeroFields, List.mem_cons, forall_eq_or_imp]
    cases f.isZero w <;> simp [ih]

end Sys2Proof
end

