-- ==== Sys2Proof/Laws/State.lean ====
section
/-! SUPPORT. What each named update of the state sets and what it leaves: one lemma per update and component. -/

namespace Sys2Proof.Machine

@[simp] theorem State.setV_dseq_v (s : State) (x : VRegs) : (s.setV x).dseq.v = x := rfl
@[simp] theorem State.setV_dseq_pc (s : State) (x : VRegs) : (s.setV x).dseq.pc = s.dseq.pc := rfl
@[simp] theorem State.setV_dseq_status (s : State) (x : VRegs) : (s.setV x).dseq.status = s.dseq.status := rfl
@[simp] theorem State.setV_prog (s : State) (x : VRegs) : (s.setV x).prog = s.prog := rfl
@[simp] theorem State.setV_pin (s : State) (x : VRegs) : (s.setV x).pin = s.pin := rfl
@[simp] theorem State.setV_conv (s : State) (x : VRegs) : (s.setV x).conv = s.conv := rfl
@[simp] theorem State.setV_pulse (s : State) (x : VRegs) : (s.setV x).pulse = s.pulse := rfl
@[simp] theorem State.setV_sys (s : State) (x : VRegs) : (s.setV x).sys = s.sys := rfl
@[simp] theorem State.setV_params (s : State) (x : VRegs) : (s.setV x).params = s.params := rfl
@[simp] theorem State.setV_sched (s : State) (x : VRegs) : (s.setV x).sched = s.sched := rfl

@[simp] theorem State.setPc_dseq_v (s : State) (x : Nat) : (s.setPc x).dseq.v = s.dseq.v := rfl
@[simp] theorem State.setPc_dseq_pc (s : State) (x : Nat) : (s.setPc x).dseq.pc = x := rfl
@[simp] theorem State.setPc_dseq_status (s : State) (x : Nat) : (s.setPc x).dseq.status = s.dseq.status := rfl
@[simp] theorem State.setPc_prog (s : State) (x : Nat) : (s.setPc x).prog = s.prog := rfl
@[simp] theorem State.setPc_pin (s : State) (x : Nat) : (s.setPc x).pin = s.pin := rfl
@[simp] theorem State.setPc_conv (s : State) (x : Nat) : (s.setPc x).conv = s.conv := rfl
@[simp] theorem State.setPc_pulse (s : State) (x : Nat) : (s.setPc x).pulse = s.pulse := rfl
@[simp] theorem State.setPc_sys (s : State) (x : Nat) : (s.setPc x).sys = s.sys := rfl
@[simp] theorem State.setPc_params (s : State) (x : Nat) : (s.setPc x).params = s.params := rfl
@[simp] theorem State.setPc_sched (s : State) (x : Nat) : (s.setPc x).sched = s.sched := rfl

@[simp] theorem State.setStatus_dseq_v (s : State) (x : Status) : (s.setStatus x).dseq.v = s.dseq.v := rfl
@[simp] theorem State.setStatus_dseq_pc (s : State) (x : Status) : (s.setStatus x).dseq.pc = s.dseq.pc := rfl
@[simp] theorem State.setStatus_dseq_status (s : State) (x : Status) : (s.setStatus x).dseq.status = x := rfl
@[simp] theorem State.setStatus_prog (s : State) (x : Status) : (s.setStatus x).prog = s.prog := rfl
@[simp] theorem State.setStatus_pin (s : State) (x : Status) : (s.setStatus x).pin = s.pin := rfl
@[simp] theorem State.setStatus_conv (s : State) (x : Status) : (s.setStatus x).conv = s.conv := rfl
@[simp] theorem State.setStatus_pulse (s : State) (x : Status) : (s.setStatus x).pulse = s.pulse := rfl
@[simp] theorem State.setStatus_sys (s : State) (x : Status) : (s.setStatus x).sys = s.sys := rfl
@[simp] theorem State.setStatus_params (s : State) (x : Status) : (s.setStatus x).params = s.params := rfl
@[simp] theorem State.setStatus_sched (s : State) (x : Status) : (s.setStatus x).sched = s.sched := rfl

@[simp] theorem State.setPin_dseq_v (s : State) (x : PinUnit) : (s.setPin x).dseq.v = s.dseq.v := rfl
@[simp] theorem State.setPin_dseq_pc (s : State) (x : PinUnit) : (s.setPin x).dseq.pc = s.dseq.pc := rfl
@[simp] theorem State.setPin_dseq_status (s : State) (x : PinUnit) : (s.setPin x).dseq.status = s.dseq.status := rfl
@[simp] theorem State.setPin_prog (s : State) (x : PinUnit) : (s.setPin x).prog = s.prog := rfl
@[simp] theorem State.setPin_pin (s : State) (x : PinUnit) : (s.setPin x).pin = x := rfl
@[simp] theorem State.setPin_conv (s : State) (x : PinUnit) : (s.setPin x).conv = s.conv := rfl
@[simp] theorem State.setPin_pulse (s : State) (x : PinUnit) : (s.setPin x).pulse = s.pulse := rfl
@[simp] theorem State.setPin_sys (s : State) (x : PinUnit) : (s.setPin x).sys = s.sys := rfl
@[simp] theorem State.setPin_params (s : State) (x : PinUnit) : (s.setPin x).params = s.params := rfl
@[simp] theorem State.setPin_sched (s : State) (x : PinUnit) : (s.setPin x).sched = s.sched := rfl

@[simp] theorem State.setConv_dseq_v (s : State) (x : ConvUnit) : (s.setConv x).dseq.v = s.dseq.v := rfl
@[simp] theorem State.setConv_dseq_pc (s : State) (x : ConvUnit) : (s.setConv x).dseq.pc = s.dseq.pc := rfl
@[simp] theorem State.setConv_dseq_status (s : State) (x : ConvUnit) : (s.setConv x).dseq.status = s.dseq.status := rfl
@[simp] theorem State.setConv_prog (s : State) (x : ConvUnit) : (s.setConv x).prog = s.prog := rfl
@[simp] theorem State.setConv_pin (s : State) (x : ConvUnit) : (s.setConv x).pin = s.pin := rfl
@[simp] theorem State.setConv_conv (s : State) (x : ConvUnit) : (s.setConv x).conv = x := rfl
@[simp] theorem State.setConv_pulse (s : State) (x : ConvUnit) : (s.setConv x).pulse = s.pulse := rfl
@[simp] theorem State.setConv_sys (s : State) (x : ConvUnit) : (s.setConv x).sys = s.sys := rfl
@[simp] theorem State.setConv_params (s : State) (x : ConvUnit) : (s.setConv x).params = s.params := rfl
@[simp] theorem State.setConv_sched (s : State) (x : ConvUnit) : (s.setConv x).sched = s.sched := rfl

@[simp] theorem State.setPulse_dseq_v (s : State) (x : PulseUnit) : (s.setPulse x).dseq.v = s.dseq.v := rfl
@[simp] theorem State.setPulse_dseq_pc (s : State) (x : PulseUnit) : (s.setPulse x).dseq.pc = s.dseq.pc := rfl
@[simp] theorem State.setPulse_dseq_status (s : State) (x : PulseUnit) : (s.setPulse x).dseq.status = s.dseq.status := rfl
@[simp] theorem State.setPulse_prog (s : State) (x : PulseUnit) : (s.setPulse x).prog = s.prog := rfl
@[simp] theorem State.setPulse_pin (s : State) (x : PulseUnit) : (s.setPulse x).pin = s.pin := rfl
@[simp] theorem State.setPulse_conv (s : State) (x : PulseUnit) : (s.setPulse x).conv = s.conv := rfl
@[simp] theorem State.setPulse_pulse (s : State) (x : PulseUnit) : (s.setPulse x).pulse = x := rfl
@[simp] theorem State.setPulse_sys (s : State) (x : PulseUnit) : (s.setPulse x).sys = s.sys := rfl
@[simp] theorem State.setPulse_params (s : State) (x : PulseUnit) : (s.setPulse x).params = s.params := rfl
@[simp] theorem State.setPulse_sched (s : State) (x : PulseUnit) : (s.setPulse x).sched = s.sched := rfl

@[simp] theorem State.setSys_dseq_v (s : State) (x : SysUnit) : (s.setSys x).dseq.v = s.dseq.v := rfl
@[simp] theorem State.setSys_dseq_pc (s : State) (x : SysUnit) : (s.setSys x).dseq.pc = s.dseq.pc := rfl
@[simp] theorem State.setSys_dseq_status (s : State) (x : SysUnit) : (s.setSys x).dseq.status = s.dseq.status := rfl
@[simp] theorem State.setSys_prog (s : State) (x : SysUnit) : (s.setSys x).prog = s.prog := rfl
@[simp] theorem State.setSys_pin (s : State) (x : SysUnit) : (s.setSys x).pin = s.pin := rfl
@[simp] theorem State.setSys_conv (s : State) (x : SysUnit) : (s.setSys x).conv = s.conv := rfl
@[simp] theorem State.setSys_pulse (s : State) (x : SysUnit) : (s.setSys x).pulse = s.pulse := rfl
@[simp] theorem State.setSys_sys (s : State) (x : SysUnit) : (s.setSys x).sys = x := rfl
@[simp] theorem State.setSys_params (s : State) (x : SysUnit) : (s.setSys x).params = s.params := rfl
@[simp] theorem State.setSys_sched (s : State) (x : SysUnit) : (s.setSys x).sched = s.sched := rfl

@[simp] theorem State.setProg_dseq_v (s : State) (x : List InstrWord) : (s.setProg x).dseq.v = s.dseq.v := rfl
@[simp] theorem State.setProg_dseq_pc (s : State) (x : List InstrWord) : (s.setProg x).dseq.pc = s.dseq.pc := rfl
@[simp] theorem State.setProg_dseq_status (s : State) (x : List InstrWord) : (s.setProg x).dseq.status = s.dseq.status := rfl
@[simp] theorem State.setProg_prog (s : State) (x : List InstrWord) : (s.setProg x).prog = x := rfl
@[simp] theorem State.setProg_pin (s : State) (x : List InstrWord) : (s.setProg x).pin = s.pin := rfl
@[simp] theorem State.setProg_conv (s : State) (x : List InstrWord) : (s.setProg x).conv = s.conv := rfl
@[simp] theorem State.setProg_pulse (s : State) (x : List InstrWord) : (s.setProg x).pulse = s.pulse := rfl
@[simp] theorem State.setProg_sys (s : State) (x : List InstrWord) : (s.setProg x).sys = s.sys := rfl
@[simp] theorem State.setProg_params (s : State) (x : List InstrWord) : (s.setProg x).params = s.params := rfl
@[simp] theorem State.setProg_sched (s : State) (x : List InstrWord) : (s.setProg x).sched = s.sched := rfl

@[simp] theorem State.setSched_dseq_v (s : State) (x : List Event) : (s.setSched x).dseq.v = s.dseq.v := rfl
@[simp] theorem State.setSched_dseq_pc (s : State) (x : List Event) : (s.setSched x).dseq.pc = s.dseq.pc := rfl
@[simp] theorem State.setSched_dseq_status (s : State) (x : List Event) : (s.setSched x).dseq.status = s.dseq.status := rfl
@[simp] theorem State.setSched_prog (s : State) (x : List Event) : (s.setSched x).prog = s.prog := rfl
@[simp] theorem State.setSched_pin (s : State) (x : List Event) : (s.setSched x).pin = s.pin := rfl
@[simp] theorem State.setSched_conv (s : State) (x : List Event) : (s.setSched x).conv = s.conv := rfl
@[simp] theorem State.setSched_pulse (s : State) (x : List Event) : (s.setSched x).pulse = s.pulse := rfl
@[simp] theorem State.setSched_sys (s : State) (x : List Event) : (s.setSched x).sys = s.sys := rfl
@[simp] theorem State.setSched_params (s : State) (x : List Event) : (s.setSched x).params = s.params := rfl
@[simp] theorem State.setSched_sched (s : State) (x : List Event) : (s.setSched x).sched = x := rfl

@[simp] theorem State.advance_dseq_v (s : State) : s.advance.dseq.v = s.dseq.v := rfl
@[simp] theorem State.advance_dseq_pc (s : State) : s.advance.dseq.pc = s.dseq.pc + 1 := rfl
@[simp] theorem State.advance_dseq_status (s : State) : s.advance.dseq.status = s.dseq.status := rfl
@[simp] theorem State.advance_prog (s : State) : s.advance.prog = s.prog := rfl
@[simp] theorem State.advance_pin (s : State) : s.advance.pin = s.pin := rfl
@[simp] theorem State.advance_conv (s : State) : s.advance.conv = s.conv := rfl
@[simp] theorem State.advance_pulse (s : State) : s.advance.pulse = s.pulse := rfl
@[simp] theorem State.advance_sys (s : State) : s.advance.sys = s.sys := rfl
@[simp] theorem State.advance_params (s : State) : s.advance.params = s.params := rfl
@[simp] theorem State.advance_sched (s : State) : s.advance.sched = s.sched := rfl

@[simp] theorem State.raiseFault_dseq_v (s : State) (x : Fault) : (s.raiseFault x).dseq.v = s.dseq.v := rfl
@[simp] theorem State.raiseFault_dseq_pc (s : State) (x : Fault) : (s.raiseFault x).dseq.pc = s.dseq.pc := rfl
@[simp] theorem State.raiseFault_dseq_status (s : State) (x : Fault) : (s.raiseFault x).dseq.status = .faulted x := rfl
@[simp] theorem State.raiseFault_prog (s : State) (x : Fault) : (s.raiseFault x).prog = s.prog := rfl
@[simp] theorem State.raiseFault_pin (s : State) (x : Fault) : (s.raiseFault x).pin = s.pin := rfl
@[simp] theorem State.raiseFault_conv (s : State) (x : Fault) : (s.raiseFault x).conv = s.conv := rfl
@[simp] theorem State.raiseFault_pulse (s : State) (x : Fault) : (s.raiseFault x).pulse = s.pulse := rfl
@[simp] theorem State.raiseFault_sys (s : State) (x : Fault) : (s.raiseFault x).sys = s.sys := rfl
@[simp] theorem State.raiseFault_params (s : State) (x : Fault) : (s.raiseFault x).params = s.params := rfl
@[simp] theorem State.raiseFault_sched (s : State) (x : Fault) : (s.raiseFault x).sched = s.sched := rfl

@[simp] theorem State.raiseRefuse_dseq_v (s : State) (x : Refusal) : (s.raiseRefuse x).dseq.v = s.dseq.v := rfl
@[simp] theorem State.raiseRefuse_dseq_pc (s : State) (x : Refusal) : (s.raiseRefuse x).dseq.pc = s.dseq.pc := rfl
@[simp] theorem State.raiseRefuse_dseq_status (s : State) (x : Refusal) : (s.raiseRefuse x).dseq.status = .refused x := rfl
@[simp] theorem State.raiseRefuse_prog (s : State) (x : Refusal) : (s.raiseRefuse x).prog = s.prog := rfl
@[simp] theorem State.raiseRefuse_pin (s : State) (x : Refusal) : (s.raiseRefuse x).pin = s.pin := rfl
@[simp] theorem State.raiseRefuse_conv (s : State) (x : Refusal) : (s.raiseRefuse x).conv = s.conv := rfl
@[simp] theorem State.raiseRefuse_pulse (s : State) (x : Refusal) : (s.raiseRefuse x).pulse = s.pulse := rfl
@[simp] theorem State.raiseRefuse_sys (s : State) (x : Refusal) : (s.raiseRefuse x).sys = s.sys := rfl
@[simp] theorem State.raiseRefuse_params (s : State) (x : Refusal) : (s.raiseRefuse x).params = s.params := rfl
@[simp] theorem State.raiseRefuse_sched (s : State) (x : Refusal) : (s.raiseRefuse x).sched = s.sched := rfl

@[simp] theorem State.writeV_dseq_v (s : State) (r : VReg) (x : Word) : (s.writeV r x).dseq.v = s.dseq.v.set r x := rfl
@[simp] theorem State.writeV_dseq_pc (s : State) (r : VReg) (x : Word) : (s.writeV r x).dseq.pc = s.dseq.pc := rfl
@[simp] theorem State.writeV_dseq_status (s : State) (r : VReg) (x : Word) : (s.writeV r x).dseq.status = s.dseq.status := rfl
@[simp] theorem State.writeV_prog (s : State) (r : VReg) (x : Word) : (s.writeV r x).prog = s.prog := rfl
@[simp] theorem State.writeV_pin (s : State) (r : VReg) (x : Word) : (s.writeV r x).pin = s.pin := rfl
@[simp] theorem State.writeV_conv (s : State) (r : VReg) (x : Word) : (s.writeV r x).conv = s.conv := rfl
@[simp] theorem State.writeV_pulse (s : State) (r : VReg) (x : Word) : (s.writeV r x).pulse = s.pulse := rfl
@[simp] theorem State.writeV_sys (s : State) (r : VReg) (x : Word) : (s.writeV r x).sys = s.sys := rfl
@[simp] theorem State.writeV_params (s : State) (r : VReg) (x : Word) : (s.writeV r x).params = s.params := rfl
@[simp] theorem State.writeV_sched (s : State) (r : VReg) (x : Word) : (s.writeV r x).sched = s.sched := rfl

/-- Writing the components a state already holds gives the state back. -/
theorem State.setConv_self (s : State) : s.setConv s.conv = s := rfl
theorem State.setPulse_self (s : State) : s.setPulse s.pulse = s := rfl
theorem State.setPin_self (s : State) : s.setPin s.pin = s := rfl
theorem State.setSys_self (s : State) : s.setSys s.sys = s := rfl

/-- A driver register read after a write of the same register. -/
@[simp] theorem VRegs.get_set_same (v : VRegs) (r : VReg) (x : Word) : (v.set r x).get r = some x := by cases r <;> rfl

/-- A driver register read after a write of another register (R21: no aliases). -/
theorem VRegs.get_set_other (v : VRegs) (r q : VReg) (x : Word) (h : q ≠ r) : (v.set r x).get q = v.get q := by
  cases r <;> cases q <;> first | rfl | exact absurd rfl h

/-- Power-on is the reset event with the power-on draws, on a machine with no program and no schedule. -/
theorem State.reset_eq_resetWith :
    State.reset = { State.reset with prog := [], params := Config.params, sched := [] }.resetWith Config.powerOnDraws := rfl

@[simp] theorem State.resetWith_prog (s : State) (d : ResetDraws) : (s.resetWith d).prog = s.prog := rfl
@[simp] theorem State.resetWith_params (s : State) (d : ResetDraws) : (s.resetWith d).params = s.params := rfl
@[simp] theorem State.resetWith_sched (s : State) (d : ResetDraws) : (s.resetWith d).sched = s.sched := rfl

end Sys2Proof.Machine
end

