-- ==== Sys2Proof/Laws/Ops.lean ====
section
/-! SUPPORT. What the shared operations do, said once: the register map, the checks of a bus write, the four write
instructions as one register write, reads, and the cases of an instruction's answer. -/

namespace Sys2Proof.Machine

/-! ## The register map -/

@[simp] theorem Reg.ofOff_off (r : Reg) : Reg.ofOff r.off = some r := by cases r <;> rfl

/-- An offset names a register exactly if it is that register's offset. -/
theorem Reg.ofOff_eq_some (off : RegOff) (r : Reg) : Reg.ofOff off = some r ↔ r.off = off := by
  constructor
  · intro h
    have := List.find?_some h
    simpa using this
  · rintro rfl
    exact Reg.ofOff_off r

theorem Reg.mem_all (r : Reg) : r ∈ Reg.all := by cases r <;> decide

/-- An offset is not mapped exactly if no register stands there. -/
theorem Reg.ofOff_eq_none (off : RegOff) : Reg.ofOff off = none ↔ ∀ r : Reg, r.off ≠ off := by
  simp only [Reg.ofOff, List.find?_eq_none, beq_iff_eq]
  exact ⟨fun h r => h r (Reg.mem_all r), fun h r _ => h r⟩

theorem Reg.off_injective {r q : Reg} (h : r.off = q.off) : r = q := by
  have := (Reg.ofOff_eq_some q.off r).2 h
  simpa using this.symm

/-! ## The checks of a bus write -/

/-- RegWrite at a mapped offset: read-only, then reserved bits, then the register's own rule (R107). -/
theorem regWrite_off (r : Reg) (x : Word) (s : State) :
    regWrite r.off x s =
      if r.readOnly then .error (.readonlyWrite s.dseq.pc r.off)
      else if x &&& ~~~r.definedMask ≠ 0 then .error (.reservedBits s.dseq.pc r.off x) else writeReg r x s := by
  simp only [regWrite, writeTarget, Reg.ofOff_off]
  cases r.readOnly <;> rfl

theorem regWrite_unmapped {off : RegOff} (h : Reg.ofOff off = none) (x : Word) (s : State) :
    regWrite off x s = .error (.unmapped s.dseq.pc off) := by
  simp [regWrite, writeTarget, h]

theorem regModify_unmapped {off : RegOff} (h : Reg.ofOff off = none) (f : Word → Word) (s : State) :
    regModify off f s = .error (.unmapped s.dseq.pc off) := by
  simp [regModify, writeTarget, h]

/-- The read-modify-write of a mapped register is the write of the changed stored value (R102, R103). -/
theorem regModify_off (r : Reg) (f : Word → Word) (s : State) :
    regModify r.off f s = regWrite r.off (f (stored r s)) s := by
  simp only [regModify, regWrite, writeTarget, Reg.ofOff_off]
  cases r.readOnly <;> rfl

/-- WR, WRV, BIS and BIC are one register write, each of the value its rule gives. -/
theorem exec_of_writes {i : Instr} {r : Reg} {x : Word} {s : State} (h : Writes i r x s) :
    exec i s = commit s (regWrite r.off x s) := by
  rcases h with rfl | ⟨src, rfl, hx⟩ | ⟨mask, rfl, rfl⟩ | ⟨mask, rfl, rfl⟩
  · rfl
  · simp [exec, execWrv, withSource, hx]
  · simp [exec, execBis, regModify_off]
  · simp [exec, execBic, regModify_off]

/-- A write of a value that fits a writable register is settled by the register's own rule. -/
theorem exec_of_writes_fits {i : Instr} {r : Reg} {x : Word} {s : State} (h : Writes i r x s) (hr : r.readOnly = false)
    (hx : Fits r x) : exec i s = commit s (writeReg r x s) := by
  rw [exec_of_writes h, regWrite_off, hr]
  simp [show x &&& ~~~r.definedMask = 0 from hx]

/-! ## Answers -/

/-- Every meaning answers a next state; a raised fault or refusal is recorded in its status (R220). -/
theorem exec_answers (i : Instr) (s : State) : ∃ t, exec i s = .next t := by
  cases i with
  | wr off imm => exact ⟨_, rfl⟩
  | bis off mask => exact ⟨_, rfl⟩
  | bic off mask => exact ⟨_, rfl⟩
  | wrv off src => simp only [exec, execWrv, withSource, commit]; split <;> exact ⟨_, rfl⟩
  | rd dst off => simp only [exec, execRd, writeDest]; split <;> exact ⟨_, rfl⟩
  | divu dst src d =>
    simp only [exec, execDivu, withSource, writeDest]
    split
    · exact ⟨_, rfl⟩
    · split <;> exact ⟨_, rfl⟩
  | poll off mask => simp only [exec, execPoll]; split <;> exact ⟨_, rfl⟩
  | jmp target => exact ⟨_, rfl⟩
  | halt => exact ⟨_, rfl⟩

theorem dseqStep_answers (s : State) : ∃ t, dseqStep s = .next t := by
  unfold dseqStep
  split
  · exact ⟨_, rfl⟩
  · exact exec_answers _ s

theorem fire_answers (s : State) (e : Event) : ∃ t, e.fire s = .next t := by
  cases e with
  | dseq => exact dseqStep_answers s
  | complete r => exact ⟨_, rfl⟩
  | tick => exact ⟨_, rfl⟩
  | watchdog d => exact ⟨_, rfl⟩

/-- What an instruction can do, said once: a write of one register, a raised fault or refusal, a read into a driver register, a
quotient, a poll, a jump or a halt. -/
theorem exec_cases {i : Instr} {s t : State} (h : exec i s = .next t) :
    (∃ r x s', Writes i r x s ∧ r.readOnly = false ∧ Fits r x ∧ writeReg r x s = .ok s' ∧ t = s'.advance) ∨
    (∃ f, t = s.raiseFault f) ∨ (∃ f, t = s.raiseRefuse f) ∨
    (∃ dst r, i = .rd dst r.off ∧ t = ((readEffect r s).writeV dst (stored r s)).advance) ∨
    (∃ dst src d x, i = .divu dst src d ∧ d ≠ 0 ∧ s.readV src = some x ∧ t = (s.writeV dst (x / d)).advance) ∨
    (∃ r mask, i = .poll r.off mask ∧
      t = if stored r s &&& mask ≠ 0 then (readEffect r s).advance else readEffect r s) ∨
    (∃ target, i = .jmp target ∧ t = s.setPc target.toNat) ∨ (i = .halt ∧ t = s.setStatus .halted) := by
  have write : ∀ {off : RegOff} {x : Word}, (∀ r : Reg, r.off = off → Writes i r x s) →
      commit s (regWrite off x s) = .next t →
      (∃ r x s', Writes i r x s ∧ r.readOnly = false ∧ Fits r x ∧ writeReg r x s = .ok s' ∧ t = s'.advance) ∨
      ∃ f, t = s.raiseRefuse f := by
    intro off x hw hc
    simp only [commit, Host.Outcome.next.injEq] at hc
    cases ho : Reg.ofOff off with
    | none => rw [regWrite_unmapped ho] at hc; exact .inr ⟨_, hc.symm⟩
    | some r =>
      obtain rfl := (Reg.ofOff_eq_some off r).1 ho
      rw [regWrite_off] at hc
      split at hc
      · exact .inr ⟨_, hc.symm⟩
      · split at hc
        · exact .inr ⟨_, hc.symm⟩
        · rename_i hro hfit
          cases hwr : writeReg r x s with
          | error e => rw [hwr] at hc; exact .inr ⟨_, hc.symm⟩
          | ok s' =>
            rw [hwr] at hc
            exact .inl ⟨r, x, s', hw r rfl, by simpa using hro, by simpa [Fits] using hfit, hwr, hc.symm⟩
  have modify : ∀ {off : RegOff} {f : Word → Word}, (∀ r : Reg, r.off = off → Writes i r (f (stored r s)) s) →
      commit s (regModify off f s) = .next t →
      (∃ r x s', Writes i r x s ∧ r.readOnly = false ∧ Fits r x ∧ writeReg r x s = .ok s' ∧ t = s'.advance) ∨
      ∃ f, t = s.raiseRefuse f := by
    intro off f hw hc
    cases ho : Reg.ofOff off with
    | none =>
      simp only [regModify_unmapped ho, commit, Host.Outcome.next.injEq] at hc
      exact .inr ⟨_, hc.symm⟩
    | some r =>
      obtain rfl := (Reg.ofOff_eq_some off r).1 ho
      rw [regModify_off] at hc
      exact write (fun q hq => by obtain rfl := Reg.off_injective hq; exact hw q rfl) hc
  cases i with
  | wr off imm =>
    rcases write (fun r hr => .inl (by rw [hr])) h with h | h
    · exact .inl h
    · exact .inr (.inr (.inl h))
  | bis off mask =>
    rcases modify (fun r hr => .inr (.inr (.inl ⟨mask, by rw [hr], rfl⟩))) h with h | h
    · exact .inl h
    · exact .inr (.inr (.inl h))
  | bic off mask =>
    rcases modify (fun r hr => .inr (.inr (.inr ⟨mask, by rw [hr], rfl⟩))) h with h | h
    · exact .inl h
    · exact .inr (.inr (.inl h))
  | wrv off src =>
    simp only [exec, execWrv, withSource] at h
    split at h
    · exact .inr (.inl ⟨_, (Host.Outcome.next.inj h).symm⟩)
    · rename_i x hx
      rcases write (fun r hr => .inr (.inl ⟨src, by rw [hr], hx⟩)) h with h | h
      · exact .inl h
      · exact .inr (.inr (.inl h))
  | rd dst off =>
    simp only [exec, execRd, regRead] at h
    cases ho : Reg.ofOff off with
    | none => rw [ho] at h; exact .inr (.inr (.inl ⟨_, (Host.Outcome.next.inj h).symm⟩))
    | some r =>
      obtain rfl := (Reg.ofOff_eq_some off r).1 ho
      rw [ho] at h
      exact .inr (.inr (.inr (.inl ⟨dst, r, rfl, (Host.Outcome.next.inj h).symm⟩)))
  | divu dst src d =>
    simp only [exec, execDivu, withSource] at h
    split at h
    · exact .inr (.inl ⟨_, (Host.Outcome.next.inj h).symm⟩)
    · rename_i hd
      split at h
      · exact .inr (.inl ⟨_, (Host.Outcome.next.inj h).symm⟩)
      · rename_i x hx
        exact .inr (.inr (.inr (.inr (.inl ⟨dst, src, d, x, rfl, hd, hx, (Host.Outcome.next.inj h).symm⟩))))
  | poll off mask =>
    simp only [exec, execPoll, regRead] at h
    cases ho : Reg.ofOff off with
    | none => rw [ho] at h; exact .inr (.inr (.inl ⟨_, (Host.Outcome.next.inj h).symm⟩))
    | some r =>
      obtain rfl := (Reg.ofOff_eq_some off r).1 ho
      rw [ho] at h
      exact .inr (.inr (.inr (.inr (.inr (.inl ⟨r, mask, rfl, (Host.Outcome.next.inj h).symm⟩)))))
  | jmp target =>
    exact .inr (.inr (.inr (.inr (.inr (.inr (.inl ⟨target, rfl, (Host.Outcome.next.inj h).symm⟩))))))
  | halt => exact .inr (.inr (.inr (.inr (.inr (.inr (.inr ⟨rfl, (Host.Outcome.next.inj h).symm⟩))))))

end Sys2Proof.Machine
end

