-- ==== Sys2Proof/Laws/PerInstr.lean ====
section
/-! SUPPORT. Statements made once per instruction: the encoding of each lies in its row of the opcode table. -/

namespace Sys2Proof.Laws.Opcode

/-- The op code of an instruction's row (R84). -/
def code : Instr → BitVec 4
  | .wr _ _ => 0x1
  | .bis _ _ => 0x2
  | .bic _ _ => 0x3
  | .wrv _ _ => 0x4
  | .rd _ _ => 0x5
  | .divu _ _ _ => 0x6
  | .poll _ _ => 0x7
  | .jmp _ => 0x8
  | .halt => 0xF

/-- The word of the instruction carries its row's op code (R84, R85). -/
def Statement (i : Instr) : Prop := opField (encode i) = code i

theorem wr (off : RegOff) (imm : Word) : Statement (.wr off imm) := opField_assemble _ _ _ _ _
theorem bis (off : RegOff) (mask : Word) : Statement (.bis off mask) := opField_assemble _ _ _ _ _
theorem bic (off : RegOff) (mask : Word) : Statement (.bic off mask) := opField_assemble _ _ _ _ _
theorem wrv (off : RegOff) (src : VReg) : Statement (.wrv off src) := opField_assemble _ _ _ _ _
theorem rd (dst : VReg) (off : RegOff) : Statement (.rd dst off) := opField_assemble _ _ _ _ _
theorem divu (dst src : VReg) (divisor : Word) : Statement (.divu dst src divisor) := opField_assemble _ _ _ _ _
theorem poll (off : RegOff) (mask : Word) : Statement (.poll off mask) := opField_assemble _ _ _ _ _
theorem jmp (target : Word) : Statement (.jmp target) := opField_assemble _ _ _ _ _
theorem halt : Statement .halt := opField_assemble _ _ _ _ _

end Sys2Proof.Laws.Opcode
end

