-- ==== Sys2Proof/Laws/Run.lean ====
section
/-! SUPPORT. The end of a run: it is unique, comes first and is no fault or refusal (R205); what the actuation interface can do. -/

namespace Sys2Proof.Machine

/-- An ended state is Halted, so a Faulted or Refused state is never an end (R205, R220). -/
theorem State.ended_iff (s : State) : s.ended = true ↔ s.dseq.status = .halted ∧ s.conv.pending = false := by
  simp [State.ended]

/-- An execution's run has one end. -/
theorem Execution.endsAt_unique {x : Execution} {m n : Nat} (hm : x.endsAt m) (hn : x.endsAt n) : m = n := by
  rcases Nat.lt_trichotomy m n with h | h | h
  · simpa [hm.2] using hn.1 m h
  · exact h
  · simpa [hn.2] using hm.1 n h

/-- The moments of an execution up to its end are states of the run from its first state. -/
theorem Execution.inRun_state {x : Execution} {n : Nat} (h : x.inRun n) : InRun (x.state 0) (x.state n) := by
  induction n with
  | zero => exact .start
  | succ n ih =>
    have hn := ih fun m hm => h m (Nat.lt_succ_of_lt hm)
    have hf := x.follows n
    cases he : x.event n with
    | none => rw [he] at hf; rw [show x.state (n + 1) = x.state n from hf]; exact hn
    | some e => rw [he] at hf; exact .step hn (h n (Nat.lt_succ_self n)) hf

theorem Execution.endsIn_of_endsAt {x : Execution} {n : Nat} (h : x.endsAt n) : EndsIn (x.state 0) (x.state n) :=
  ⟨Execution.inRun_state h.1, h.2⟩

/-- An ended state is its own end: no step is taken from it. -/
theorem runToEnd_of_ended {s : State} (h : s.ended = true) (k : Nat) : runToEnd k s = some s := by
  cases k <;> simp [runToEnd, h]

/-- What runToEnd gives is an ended state. -/
theorem runToEnd_ended {k : Nat} {s t : State} (h : runToEnd k s = some t) : t.ended = true := by
  induction k generalizing s with
  | zero =>
    simp only [runToEnd] at h
    split at h
    · rename_i hs; exact Option.some.inj h ▸ hs
    · simp at h
  | succ k ih =>
    simp only [runToEnd] at h
    split at h
    · rename_i hs; exact Option.some.inj h ▸ hs
    · split at h
      · exact ih h
      · simp at h
      · simp at h

/-- More steps do not change the end. -/
theorem runToEnd_succ {k : Nat} {s t : State} (h : runToEnd k s = some t) : runToEnd (k + 1) s = some t := by
  induction k generalizing s with
  | zero =>
    simp only [runToEnd] at h
    split at h
    · rename_i hs; exact Option.some.inj h ▸ runToEnd_of_ended hs 1
    · simp at h
  | succ k ih =>
    rw [runToEnd]
    rw [runToEnd] at h
    split at h
    · rename_i hs; rw [if_pos hs]; exact h
    · rename_i hs
      rw [if_neg hs]
      split at h
      · exact ih h
      · simp at h
      · simp at h

/-- The interface acts on a Running or Halted machine only (log 22). -/
theorem actuateInt_live {c : Int} {s : State} (h : s.dseq.status = .running ∨ s.dseq.status = .halted) :
    actuateInt c s = .next (actuateLive c s) := by
  rcases h with h | h <;> simp [actuateInt, h]

end Sys2Proof.Machine
end

