-- ==== Sys2Proof/Laws/Units.lean ====
section
/-! SUPPORT. What an admitted register write can do, said once per unit, and the frame of every admitted write. -/

namespace Sys2Proof.Machine

/-- The pin settlement changes at most conv_ok (R125). -/
theorem settlePinWrite_eq (before after : State) :
    settlePinWrite before after = after.setConv { after.conv with
      ok := after.conv.ok && !(after.conv.pending && pinBAnalog before && !pinBAnalog after) } := by
  unfold settlePinWrite
  split
  · rename_i h; simp [h]
  · rename_i h
    simp only [Bool.not_eq_true] at h
    simp [h, State.setConv]

/-- A pin register takes three bits; only conv_ok may change beside it (R121-R125). -/
theorem writePin_frame {r : Reg} {x : Word} {s t : State} (hr : r.unit = .pin) (h : writeReg r x s = .ok t) :
    t.dseq = s.dseq ∧ t.prog = s.prog ∧ t.pulse = s.pulse ∧ t.sys = s.sys ∧ t.params = s.params ∧ t.sched = s.sched ∧
      t.conv = { s.conv with ok := t.conv.ok } ∧
      (t.conv.ok = true → s.conv.ok = true ∧ (s.conv.pending = true → pinBAnalog s = true → pinBAnalog t = true)) := by
  cases r <;> simp only [Reg.unit, reduceCtorEq] at hr
  all_goals
    simp only [writeReg, Except.ok.injEq] at h
    subst h
    first
      | simp only [writeGpioOut, writeGpioDir]
        exact ⟨rfl, rfl, rfl, rfl, rfl, rfl, rfl, fun h => ⟨h, fun _ ha => ha⟩⟩
      | simp only [writeGpioSel0, writeGpioSel1, settlePinWrite_eq]
        refine ⟨rfl, rfl, rfl, rfl, rfl, rfl, rfl, fun h => ?_⟩
        simp only [State.setConv_conv, State.setPin_conv, Bool.and_eq_true, Bool.not_eq_true', Bool.and_eq_false_iff] at h
        refine ⟨h.1, fun hp ha => ?_⟩
        rcases h.2 with (h2 | h2) | h2
        · simp [hp] at h2
        · simp [ha] at h2
        · simpa [pinBAnalog] using h2

/-- A conversion register is written only while nothing is pending; the unit's RESULT and IFG0 stay, and a trigger sets ENC and
records ADC_OK (R140-R146). -/
theorem writeConv_frame {r : Reg} {x : Word} {s t : State} (hr : r.unit = .conversion) (h : writeReg r x s = .ok t) :
    s.conv.pending = false ∧ t = s.setConv t.conv ∧ t.conv.result = s.conv.result ∧ t.conv.ifg0 = s.conv.ifg0 ∧
      (t.conv.pending = true → t.conv.enc = true ∧ t.conv.ok = adcOk t) := by
  cases r <;> simp only [Reg.unit, reduceCtorEq] at hr
  case adcMem0 => simp [writeReg] at h
  case adcIfg => simp [writeReg] at h
  case adcCtl0 =>
    simp only [writeReg, writeAdcCtl0] at h
    repeat' split at h
    all_goals simp only [reduceCtorEq, Except.ok.injEq] at h
    · rename_i hp _ hse hsc
      subst h
      refine ⟨by simpa using hp, rfl, rfl, rfl, fun _ => ⟨?_, rfl⟩⟩
      simpa [State.startConversion, hsc] using hse
    · rename_i hp _ _ _
      subst h
      exact ⟨by simpa using hp, rfl, rfl, rfl, fun hp' => absurd hp' hp⟩
  all_goals
    simp only [writeReg, writeAdcCtl1, writeAdcCtl2, writeAdcMctl0] at h
    repeat' split at h
    all_goals simp only [reduceCtorEq, Except.ok.injEq] at h
    subst h
    first
      | (rename_i hp _; exact ⟨by simpa using hp, rfl, rfl, rfl, fun hp' => absurd hp' hp⟩)
      | (rename_i hp _ _; exact ⟨by simpa using hp, rfl, rfl, rfl, fun hp' => absurd hp' hp⟩)

/-- What an admitted write of a pulse register leaves (R170-R176). -/
theorem writePulse_frame {r : Reg} {x : Word} {s t : State} (hr : r.unit = .pulse) (h : writeReg r x s = .ok t) :
    t = s.setPulse t.pulse ∧
      ((r = .tmrCtl ∧ (t.pulse.mc = Config.mcStop ∨ t.pulse.mc = Config.mcUp) ∧ t.pulse.period = s.pulse.period ∧
          t.pulse.outmod = s.pulse.outmod ∧ t.pulse.ccr1 = s.pulse.ccr1 ∧
          (t.pulse.count = s.pulse.count ∧ t.pulse.cmpAct = s.pulse.cmpAct ∨
            x.getLsbD 2 = true ∧ t.pulse.count = 0 ∧ t.pulse.cmpAct = s.pulse.ccr1)) ∨
        (r = .tmrCcr0 ∧ s.pulse.count ≤ x ∧ t.pulse = { s.pulse with period := x }) ∨
        (r = .tmrCctl1 ∧ (t.pulse.outmod = Config.outmodLow ∨ t.pulse.outmod = Config.outmodResetSet) ∧
          t.pulse = { s.pulse with outmod := t.pulse.outmod }) ∨
        (r = .tmrCcr1 ∧ t.pulse = { s.pulse with ccr1 := x, cmpAct := t.pulse.cmpAct } ∧
          (s.pulse.mc ≠ Config.mcStop → t.pulse.cmpAct = s.pulse.cmpAct))) := by
  cases r <;> simp only [Reg.unit, reduceCtorEq] at hr
  case tmrR => simp [writeReg] at h
  case tmrCtl =>
    simp only [writeReg, writeTmrCtl] at h
    split at h
    · simp at h
    · rename_i hmc
      simp only [Except.ok.injEq] at h
      subst h
      have hmc' : x.extractLsb' 4 2 = Config.mcStop ∨ x.extractLsb' 4 2 = Config.mcUp := by tauto
      refine ⟨rfl, .inl ⟨rfl, ?_⟩⟩
      cases x.getLsbD 2
      · exact ⟨hmc', rfl, rfl, rfl, .inl ⟨rfl, rfl⟩⟩
      · exact ⟨hmc', rfl, rfl, rfl, .inr ⟨rfl, rfl, rfl⟩⟩
  case tmrCcr0 =>
    simp only [writeReg, writeTmrCcr0] at h
    split at h
    · simp at h
    · rename_i hlt
      simp only [Except.ok.injEq] at h
      subst h
      exact ⟨rfl, .inr (.inl ⟨rfl, by simpa [BitVec.not_lt] using hlt, rfl⟩)⟩
  case tmrCctl1 =>
    simp only [writeReg, writeTmrCctl1] at h
    split at h
    · simp at h
    · rename_i hmc
      simp only [Except.ok.injEq] at h
      subst h
      exact ⟨rfl, .inr (.inr (.inl ⟨rfl, by simp only [State.setPulse_pulse]; tauto, rfl⟩))⟩
  case tmrCcr1 =>
    simp only [writeReg, writeTmrCcr1, Except.ok.injEq] at h
    split at h
    · rename_i hmc
      subst h
      exact ⟨rfl, .inr (.inr (.inr ⟨rfl, rfl, fun hn => absurd hmc hn⟩))⟩
    · subst h
      exact ⟨rfl, .inr (.inr (.inr ⟨rfl, rfl, fun _ => rfl⟩))⟩

/-- An admitted write of SYS_CTL: the hold is never cleared and the lock never set again (R234). -/
theorem writeSys_frame {r : Reg} {x : Word} {s t : State} (hr : r.unit = .system) (h : writeReg r x s = .ok t) :
    t = s.setSys t.sys ∧ (s.sys.wdtHold = true → t.sys.wdtHold = true) ∧ (s.sys.pinLock = false → t.sys.pinLock = false) := by
  cases r <;> simp only [Reg.unit, reduceCtorEq] at hr
  simp only [writeReg, writeSysCtl] at h
  split at h
  · simp at h
  · split at h
    · simp at h
    · rename_i h1 h2
      simp only [Except.ok.injEq] at h
      subst h
      exact ⟨rfl, fun hw => by simpa [hw] using h1, fun hl => by simpa [hl] using h2⟩

/-- Every admitted write leaves the driver, the program, the parameters and the schedule. -/
theorem writeReg_frame {r : Reg} {x : Word} {s t : State} (h : writeReg r x s = .ok t) :
    t.dseq = s.dseq ∧ t.prog = s.prog ∧ t.params = s.params ∧ t.sched = s.sched := by
  cases hu : r.unit with
  | pin =>
    obtain ⟨h1, h2, _, _, h3, h4, _⟩ := writePin_frame hu h
    exact ⟨h1, h2, h3, h4⟩
  | conversion => rw [(writeConv_frame hu h).2.1]; exact ⟨rfl, rfl, rfl, rfl⟩
  | pulse => rw [(writePulse_frame hu h).1]; exact ⟨rfl, rfl, rfl, rfl⟩
  | system => rw [(writeSys_frame hu h).1]; exact ⟨rfl, rfl, rfl, rfl⟩

/-- The effect of a read leaves everything but IFG0. -/
theorem readEffect_eq (r : Reg) (s : State) :
    readEffect r s = s.setConv { s.conv with ifg0 := s.conv.ifg0 && r != .adcMem0 } := by
  by_cases h : r = .adcMem0
  · subst h
    simp [readEffect, State.clearIfg0]
  · have h1 : (r != .adcMem0) = true := by simpa using h
    have h2 : readEffect r s = s := by cases r <;> first | rfl | exact absurd rfl h
    rw [h1, h2]
    simp [State.setConv]

/-! ## Writes and the driver registers -/

theorem map_setV_ite {c : Prop} [Decidable c] (v : VRegs) (a b : Except Refusal State) :
    (if c then a else b).map (State.setV · v) = if c then a.map (State.setV · v) else b.map (State.setV · v) := by
  split <;> rfl

theorem map_setV_ok_ite {c : Prop} [Decidable c] (v : VRegs) (a b : State) :
    (Except.ok (ε := Refusal) (if c then a else b)).map (State.setV · v) =
      .ok (if c then a.setV v else b.setV v) := by
  split <;> rfl

@[simp] theorem stored_setV (r : Reg) (s : State) (v : VRegs) : stored r (s.setV v) = stored r s := by cases r <;> rfl

/-- A register write does not depend on the driver registers, beside the value written (R22). -/
theorem writeReg_setV (r : Reg) (x : Word) (s : State) (v : VRegs) :
    writeReg r x (s.setV v) = (writeReg r x s).map (State.setV · v) := by
  cases r
  case gpioSel0 => simp only [writeReg, writeGpioSel0, settlePinWrite_eq]; rfl
  case gpioSel1 => simp only [writeReg, writeGpioSel1, settlePinWrite_eq]; rfl
  all_goals
    simp only [writeReg, writeAdcCtl0, writeAdcCtl1, writeAdcCtl2, writeAdcMctl0, writeTmrCtl, writeTmrCcr0, writeTmrCctl1,
      writeTmrCcr1, writeSysCtl, map_setV_ite, map_setV_ok_ite]
    rfl

end Sys2Proof.Machine
end

