-- ==== Sys2Proof/Laws/Step.lean ====
section
/-! SUPPORT. What a DSEQ step and a step of the machine can do, said once, and what every instruction leaves of each unit. -/

namespace Sys2Proof.Machine

/-- A DSEQ step is a fault of its fetch or the fetched instruction (R200). -/
theorem dseqStep_cases {s t : State} (h : dseqStep s = .next t) :
    (∃ f, fetch s = .error f ∧ t = s.raiseFault f) ∨ ∃ i, fetch s = .ok i ∧ exec i s = .next t := by
  unfold dseqStep at h
  cases hf : fetch s with
  | error f => rw [hf] at h; exact .inl ⟨f, rfl, (Host.Outcome.next.inj h).symm⟩
  | ok i => rw [hf] at h; exact .inr ⟨i, rfl, h⟩

/-- A step takes the schedule's entry and is a transition of the scheduled agent, or nothing more happens (R70, log 3). -/
theorem step_cases {s t : State} (h : step s = .next t) :
    t = takeEvent s ∨ Transition (takeEvent s) (nextEvent s) t := by
  have h' : agentStep s = .next t := by
    unfold step at h
    split at h <;> first | exact h | simp at h
  unfold agentStep at h'
  split at h'
  · rename_i he; exact .inr ⟨he, h'⟩
  · exact .inl (Host.Outcome.next.inj h').symm

/-- The fetched instruction is well formed: no illegal word is executed (R87, R201). -/
theorem fetch_word {s : State} {i : Instr} (h : fetch s = .ok i) :
    ∃ w, s.prog[s.dseq.pc]? = some w ∧ decode w = .ok i := by
  unfold fetch at h
  split at h
  · simp at h
  · rename_i w hw
    split at h
    · simp at h
    · rename_i j hj
      simp only [Except.ok.injEq] at h
      exact ⟨w, hw, h ▸ hj⟩

/-- No instruction changes the program, the parameters or the schedule (R25, R62). -/
theorem exec_fixed {i : Instr} {s t : State} (h : exec i s = .next t) :
    t.prog = s.prog ∧ t.params = s.params ∧ t.sched = s.sched := by
  rcases exec_cases h with ⟨r, x, s', _, _, _, hwr, rfl⟩ | ⟨f, rfl⟩ | ⟨f, rfl⟩ | ⟨dst, r, _, rfl⟩ |
    ⟨dst, src, d, x, _, _, _, rfl⟩ | ⟨r, mask, _, rfl⟩ | ⟨tg, _, rfl⟩ | ⟨_, rfl⟩
  · exact (writeReg_frame hwr).2
  · simp
  · simp
  · simp [readEffect_eq]
  · simp
  · split <;> simp [readEffect_eq]
  · simp
  · simp

/-- An instruction changes the pin unit only by an admitted write of one of its registers (R120). -/
theorem exec_pin {i : Instr} {s t : State} (h : exec i s = .next t) :
    t.pin = s.pin ∨ ∃ r x s', Writes i r x s ∧ r.unit = .pin ∧ writeReg r x s = .ok s' ∧ t = s'.advance := by
  rcases exec_cases h with ⟨r, x, s', hw, _, _, hwr, rfl⟩ | ⟨f, rfl⟩ | ⟨f, rfl⟩ | ⟨dst, r, _, rfl⟩ |
    ⟨dst, src, d, x, _, _, _, rfl⟩ | ⟨r, mask, _, rfl⟩ | ⟨tg, _, rfl⟩ | ⟨_, rfl⟩
  · cases hu : r.unit with
    | pin => exact .inr ⟨r, x, s', hw, hu, hwr, rfl⟩
    | conversion => left; rw [(writeConv_frame hu hwr).2.1]; rfl
    | pulse => left; rw [(writePulse_frame hu hwr).1]; rfl
    | system => left; rw [(writeSys_frame hu hwr).1]; rfl
  all_goals left
  · simp
  · simp
  · simp [readEffect_eq]
  · simp
  · split <;> simp [readEffect_eq]
  · simp
  · simp

/-- An instruction changes the pulse unit only by an admitted write of one of its registers (R173, R180). -/
theorem exec_pulse {i : Instr} {s t : State} (h : exec i s = .next t) :
    t.pulse = s.pulse ∨ ∃ r x s', Writes i r x s ∧ r.unit = .pulse ∧ writeReg r x s = .ok s' ∧ t = s'.advance := by
  rcases exec_cases h with ⟨r, x, s', hw, _, _, hwr, rfl⟩ | ⟨f, rfl⟩ | ⟨f, rfl⟩ | ⟨dst, r, _, rfl⟩ |
    ⟨dst, src, d, x, _, _, _, rfl⟩ | ⟨r, mask, _, rfl⟩ | ⟨tg, _, rfl⟩ | ⟨_, rfl⟩
  · cases hu : r.unit with
    | pin => left; simp [(writePin_frame hu hwr).2.2.1]
    | conversion => left; rw [(writeConv_frame hu hwr).2.1]; rfl
    | pulse => exact .inr ⟨r, x, s', hw, hu, hwr, rfl⟩
    | system => left; rw [(writeSys_frame hu hwr).1]; rfl
  all_goals left
  · simp
  · simp
  · simp [readEffect_eq]
  · simp
  · split <;> simp [readEffect_eq]
  · simp
  · simp

/-- An instruction changes the system unit only by an admitted write of SYS_CTL (R47). -/
theorem exec_sys {i : Instr} {s t : State} (h : exec i s = .next t) :
    t.sys = s.sys ∨ ∃ r x s', Writes i r x s ∧ r.unit = .system ∧ writeReg r x s = .ok s' ∧ t = s'.advance := by
  rcases exec_cases h with ⟨r, x, s', hw, _, _, hwr, rfl⟩ | ⟨f, rfl⟩ | ⟨f, rfl⟩ | ⟨dst, r, _, rfl⟩ |
    ⟨dst, src, d, x, _, _, _, rfl⟩ | ⟨r, mask, _, rfl⟩ | ⟨tg, _, rfl⟩ | ⟨_, rfl⟩
  · cases hu : r.unit with
    | pin => left; simp [(writePin_frame hu hwr).2.2.2.1]
    | conversion => left; rw [(writeConv_frame hu hwr).2.1]; rfl
    | pulse => left; rw [(writePulse_frame hu hwr).1]; rfl
    | system => exact .inr ⟨r, x, s', hw, hu, hwr, rfl⟩
  all_goals left
  · simp
  · simp
  · simp [readEffect_eq]
  · simp
  · split <;> simp [readEffect_eq]
  · simp
  · simp

/-- No admitted write changes RESULT or IFG0 (R111). -/
theorem writeReg_result {r : Reg} {x : Word} {s t : State} (h : writeReg r x s = .ok t) :
    t.conv.result = s.conv.result ∧ t.conv.ifg0 = s.conv.ifg0 := by
  cases hu : r.unit with
  | pin => rw [(writePin_frame hu h).2.2.2.2.2.2.1]; exact ⟨rfl, rfl⟩
  | conversion => exact ⟨(writeConv_frame hu h).2.2.1, (writeConv_frame hu h).2.2.2.1⟩
  | pulse => rw [(writePulse_frame hu h).1]; exact ⟨rfl, rfl⟩
  | system => rw [(writeSys_frame hu h).1]; exact ⟨rfl, rfl⟩

end Sys2Proof.Machine
end

