-- ==== Sys2Proof/Machine/Pseudo.lean ====
section
/-! DEFINITION. The pseudo-instructions (R90): the source's components as fixed instruction sequences. They have no encoding
and no step of their own; an assembler replaces each by its expansion. -/

namespace Sys2Proof.Machine

/-- The pseudo-instructions (R90), and the variant of the control loop with bring-up folded in (R206). -/
inductive Pseudo where
  | bringup
  | pinConfig
  | adcInit
  | adcSample (dst : VReg)
  | pwmInit
  | pwmActuate (reg : VReg)
  | controlMain
  | controlMainB
  deriving DecidableEq, Repr

/-- BRINGUP (R245). -/
def bringupCode : List Instr := [.bis Reg.sysCtl.off 0x0001, .bic Reg.sysCtl.off 0x0002]

/-- PIN_CONFIG; each selection line of Pin C is emitted only for a set bit of PINC_FSEL (R130). -/
def pinConfigCode (p : Params) : List Instr :=
  [.bic Reg.gpioOut.off 0x0001, .bis Reg.gpioDir.off 0x0001, .bis Reg.gpioSel0.off 0x0002, .bis Reg.gpioSel1.off 0x0002] ++
    (if (pincFselCode p.pincFsel).getLsbD 0 then [.bis Reg.gpioSel0.off 0x0004] else []) ++
    (if (pincFselCode p.pincFsel).getLsbD 1 then [.bis Reg.gpioSel1.off 0x0004] else []) ++
    [.bis Reg.gpioDir.off 0x0004]

/-- ADC_INIT (R155). -/
def adcInitCode (p : Params) : List Instr :=
  [.bis Reg.adcCtl0.off 0x0210, .bis Reg.adcCtl1.off 0x0001, .bic Reg.adcCtl2.off 0x0030, .bis Reg.adcCtl2.off 0x0020,
    .bis Reg.adcMctl0.off (p.adcChB.setWidth 16)]

/-- ADC_SAMPLE vD (R157). -/
def adcSampleCode (dst : VReg) : List Instr :=
  [.bis Reg.adcCtl0.off 0x0003, .poll Reg.adcIfg.off 0x0001, .rd dst Reg.adcMem0.off]

/-- PWM_INIT (R184). -/
def pwmInitCode (p : Params) : List Instr :=
  [.wr Reg.tmrCcr0.off Config.periodInit, .wr Reg.tmrCctl1.off 0x00E0, .wr Reg.tmrCcr1.off Config.cmpInit,
    .wr Reg.tmrCtl.off ((p.tsselCode.setWidth 16 <<< 8) ||| 0x0014)]

/-- PWM_ACTUATE vS (R186). -/
def pwmActuateCode (reg : VReg) : List Instr := [.divu reg reg Config.cmpDiv, .wrv Reg.tmrCcr1.off reg]

/-- The three initializers in their mandatory order (R206, R207). -/
def initCode (p : Params) : List Instr := pinConfigCode p ++ adcInitCode p ++ pwmInitCode p

/-- CONTROL_MAIN laid out from index `start`: the initializers, then the loop, which jumps back to its own first index (R206). -/
def controlMainCode (p : Params) (start : Nat) : List Instr :=
  initCode p ++ adcSampleCode .v0 ++ [.divu .v0 .v0 Config.dutyDiv] ++ pwmActuateCode .v0 ++
    [.jmp (BitVec.ofNat 16 (start + (initCode p).length))]

/-- The expansion of a pseudo-instruction that stands at index `start` (R90). -/
def Pseudo.expand (p : Params) (start : Nat) : Pseudo → List Instr
  | .bringup => bringupCode
  | .pinConfig => pinConfigCode p
  | .adcInit => adcInitCode p
  | .adcSample dst => adcSampleCode dst
  | .pwmInit => pwmInitCode p
  | .pwmActuate reg => pwmActuateCode reg
  | .controlMain => controlMainCode p start
  | .controlMainB => bringupCode ++ controlMainCode p (start + bringupCode.length)

end Sys2Proof.Machine
end

