-- ==== Sys2Proof/Machine/Asm.lean ====
section
/-! DEFINITION. The assembler: a program's text to its instruction words (R89, R90). What R89 leaves open of the text (blanks, the
letters of a label, repeated and missing labels) is log 21. -/

namespace Sys2Proof.Machine

/-- Why a line of text is no instruction. -/
inductive AsmError where
  /-- no mnemonic of R84 or R90 -/
  | unknownMnemonic (line : Nat)
  /-- the operands do not have the forms or the number the instruction takes -/
  | badOperands (line : Nat)
  /-- what stands before the colon is no name -/
  | badLabel (line : Nat)
  | labelTwice (line : Nat)
  | labelMissing (line : Nat)
  /-- the label's index is no 16-bit jump target -/
  | labelTooFar (line : Nat)
  deriving DecidableEq, Repr

/-! ## Characters and fields -/

def isBlank (c : Char) : Bool := c == ' ' || c == '\t' || c == '\r'

def trimLeft (cs : List Char) : List Char := cs.dropWhile isBlank

def trim (cs : List Char) : List Char := (trimLeft (trimLeft cs).reverse).reverse

/-- The parts of a text between the occurrences of a character. -/
def splitAtChar (sep : Char) : List Char → List (List Char)
  | [] => [[]]
  | c :: cs =>
    if c = sep then [] :: splitAtChar sep cs
    else
      match splitAtChar sep cs with
      | [] => [[c]]
      | w :: ws => (c :: w) :: ws

/-- The value of a digit, decimal or hexadecimal. -/
def digitValue (c : Char) : Option Nat :=
  if '0' ≤ c ∧ c ≤ '9' then some (c.toNat - '0'.toNat)
  else if 'a' ≤ c ∧ c ≤ 'f' then some (c.toNat - 'a'.toNat + 10)
  else if 'A' ≤ c ∧ c ≤ 'F' then some (c.toNat - 'A'.toNat + 10)
  else none

/-- The number the digits continue from `acc`. -/
def digitsFrom (base acc : Nat) : List Char → Option Nat
  | [] => some acc
  | c :: cs =>
    match digitValue c with
    | none => none
    | some d => if d < base then digitsFrom base (acc * base + d) cs else none

/-- A number of at least one digit. -/
def parseDigits (base : Nat) : List Char → Option Nat
  | [] => none
  | c :: cs => digitsFrom base 0 (c :: cs)

def parseNumber : List Char → Option Nat
  | '0' :: 'x' :: cs => parseDigits 16 cs
  | cs => parseDigits 10 cs

/-! ## Operands (R89) -/

/-- `#` and a number in [0, 65535]. -/
def parseImm : List Char → Option Word
  | '#' :: cs =>
    match parseNumber cs with
    | none => none
    | some n => if n ≤ 65535 then some (BitVec.ofNat 16 n) else none
  | _ => none

def parseVReg : List Char → Option VReg
  | ['v', '0'] => some .v0
  | ['v', '1'] => some .v1
  | ['v', '2'] => some .v2
  | ['v', '3'] => some .v3
  | _ => none

/-- The name column of R27. -/
def Reg.name : Reg → List Char
  | .gpioOut => "GPIO_OUT".toList
  | .gpioDir => "GPIO_DIR".toList
  | .gpioSel0 => "GPIO_SEL0".toList
  | .gpioSel1 => "GPIO_SEL1".toList
  | .adcCtl0 => "ADC_CTL0".toList
  | .adcCtl1 => "ADC_CTL1".toList
  | .adcCtl2 => "ADC_CTL2".toList
  | .adcMctl0 => "ADC_MCTL0".toList
  | .adcMem0 => "ADC_MEM0".toList
  | .adcIfg => "ADC_IFG".toList
  | .tmrCtl => "TMR_CTL".toList
  | .tmrR => "TMR_R".toList
  | .tmrCcr0 => "TMR_CCR0".toList
  | .tmrCctl1 => "TMR_CCTL1".toList
  | .tmrCcr1 => "TMR_CCR1".toList
  | .sysCtl => "SYS_CTL".toList

/-- A register's name, or `@0xNN`. -/
def parseOff : List Char → Option RegOff
  | ['@', '0', 'x', hi, lo] => (parseDigits 16 [hi, lo]).map (BitVec.ofNat 8)
  | cs => (Reg.all.find? fun r => r.name == cs).map Reg.off

def isNameStart (c : Char) : Bool := ('a' ≤ c && c ≤ 'z') || ('A' ≤ c && c ≤ 'Z') || c == '_'

/-- A label's name: a letter or an underscore, then letters, digits and underscores (log 21). -/
def isName : List Char → Bool
  | [] => false
  | c :: cs => isNameStart c && cs.all fun d => isNameStart d || ('0' ≤ d && d ≤ '9')

/-! ## Lines -/

/-- What a line of text stands for. -/
inductive Item where
  | instr (i : Instr)
  /-- JMP with a label -/
  | jump (label : List Char)
  | pseudo (p : Pseudo)
  deriving DecidableEq, Repr

/-- The line's mnemonic and its operands. -/
def splitLine (cs : List Char) : List Char × List (List Char) :=
  let mnemonic := cs.takeWhile fun c => !isBlank c
  let rest := trim (cs.dropWhile fun c => !isBlank c)
  (mnemonic, if rest.isEmpty then [] else (splitAtChar ',' rest).map trim)

def itemOffImm (make : RegOff → Word → Instr) : List (List Char) → Option Item
  | [a, b] =>
    match parseOff a, parseImm b with
    | some off, some imm => some (.instr (make off imm))
    | _, _ => none
  | _ => none

def itemWrv : List (List Char) → Option Item
  | [a, b] =>
    match parseOff a, parseVReg b with
    | some off, some src => some (.instr (.wrv off src))
    | _, _ => none
  | _ => none

def itemRd : List (List Char) → Option Item
  | [a, b] =>
    match parseVReg a, parseOff b with
    | some dst, some off => some (.instr (.rd dst off))
    | _, _ => none
  | _ => none

/-- A zero divisor is not an instruction (R201). -/
def itemDivu : List (List Char) → Option Item
  | [a, b, c] =>
    match parseVReg a, parseVReg b, parseImm c with
    | some dst, some src, some d => if d = 0 then none else some (.instr (.divu dst src d))
    | _, _, _ => none
  | _ => none

def itemJmp : List (List Char) → Option Item
  | [a] =>
    match parseImm a with
    | some target => some (.instr (.jmp target))
    | none => if isName a then some (.jump a) else none
  | _ => none

def itemPlain (x : Item) : List (List Char) → Option Item
  | [] => some x
  | _ => none

def itemVReg (make : VReg → Pseudo) : List (List Char) → Option Item
  | [a] => (parseVReg a).map fun r => .pseudo (make r)
  | _ => none

/-- The reader of the operands behind a mnemonic. -/
def operandReader (m : List Char) : Option (List (List Char) → Option Item) :=
  if m = "WR".toList then some (itemOffImm .wr)
  else if m = "BIS".toList then some (itemOffImm .bis)
  else if m = "BIC".toList then some (itemOffImm .bic)
  else if m = "WRV".toList then some itemWrv
  else if m = "RD".toList then some itemRd
  else if m = "DIVU".toList then some itemDivu
  else if m = "POLL".toList then some (itemOffImm .poll)
  else if m = "JMP".toList then some itemJmp
  else if m = "HALT".toList then some (itemPlain (.instr .halt))
  else if m = "BRINGUP".toList then some (itemPlain (.pseudo .bringup))
  else if m = "PIN_CONFIG".toList then some (itemPlain (.pseudo .pinConfig))
  else if m = "ADC_INIT".toList then some (itemPlain (.pseudo .adcInit))
  else if m = "ADC_SAMPLE".toList then some (itemVReg .adcSample)
  else if m = "PWM_INIT".toList then some (itemPlain (.pseudo .pwmInit))
  else if m = "PWM_ACTUATE".toList then some (itemVReg .pwmActuate)
  else if m = "CONTROL_MAIN".toList then some (itemPlain (.pseudo .controlMain))
  else if m = "CONTROL_MAIN_B".toList then some (itemPlain (.pseudo .controlMainB))
  else none

/-- The item of a line's text, none where the text is blank. -/
def parseItem (line : Nat) (cs : List Char) : Except AsmError (Option Item) :=
  if (trim cs).isEmpty then .ok none
  else
    let parts := splitLine (trim cs)
    match operandReader parts.1 with
    | none => .error (.unknownMnemonic line)
    | some read =>
      match read parts.2 with
      | none => .error (.badOperands line)
      | some x => .ok (some x)

/-- A line: its number, its label and its item. -/
structure Line where
  number : Nat
  label : Option (List Char)
  item : Option Item
  deriving DecidableEq, Repr

/-- One line of text: the comment off, the label before a colon, the instruction. -/
def parseLine (number : Nat) (text : List Char) : Except AsmError Line :=
  match splitAtChar ':' (text.takeWhile fun c => c != ';') with
  | [] => .ok ⟨number, none, none⟩
  | [body] =>
    match parseItem number body with
    | .error e => .error e
    | .ok x => .ok ⟨number, none, x⟩
  | [name, body] =>
    if isName (trim name) then
      match parseItem number body with
      | .error e => .error e
      | .ok x => .ok ⟨number, some (trim name), x⟩
    else .error (.badLabel number)
  | _ => .error (.badLabel number)

def parseLines (number : Nat) : List (List Char) → Except AsmError (List Line)
  | [] => .ok []
  | text :: rest =>
    match parseLine number text with
    | .error e => .error e
    | .ok l =>
      match parseLines (number + 1) rest with
      | .error e => .error e
      | .ok ls => .ok (l :: ls)

/-! ## Layout and words -/

/-- How many instructions a line stands for. -/
def Line.size (p : Params) (l : Line) : Nat :=
  match l.item with
  | none => 0
  | some (.instr _) => 1
  | some (.jump _) => 1
  | some (.pseudo x) => (x.expand p 0).length

/-- The labels with the index of the next instruction, from index `start` on. -/
def labelsFrom (p : Params) (start : Nat) : List Line → Except AsmError (List (List Char × Nat))
  | [] => .ok []
  | l :: ls =>
    match labelsFrom p (start + l.size p) ls with
    | .error e => .error e
    | .ok table =>
      match l.label with
      | none => .ok table
      | some name =>
        match table.lookup name with
        | some _ => .error (.labelTwice l.number)
        | none => .ok ((name, start) :: table)

/-- The instructions of a line that stands at index `start`. -/
def Line.code (p : Params) (table : List (List Char × Nat)) (start : Nat) (l : Line) : Except AsmError (List Instr) :=
  match l.item with
  | none => .ok []
  | some (.instr i) => .ok [i]
  | some (.pseudo x) => .ok (x.expand p start)
  | some (.jump name) =>
    match table.lookup name with
    | none => .error (.labelMissing l.number)
    | some k => if k ≤ 65535 then .ok [.jmp (BitVec.ofNat 16 k)] else .error (.labelTooFar l.number)

def codeFrom (p : Params) (table : List (List Char × Nat)) (start : Nat) : List Line → Except AsmError (List Instr)
  | [] => .ok []
  | l :: ls =>
    match l.code p table start with
    | .error e => .error e
    | .ok is =>
      match codeFrom p table (start + is.length) ls with
      | .error e => .error e
      | .ok rest => .ok (is ++ rest)

/-- The instructions of a program's text, one line after the other. -/
def assembleLines (p : Params) (texts : List (List Char)) : Except AsmError (List Instr) :=
  match parseLines 1 texts with
  | .error e => .error e
  | .ok ls =>
    match labelsFrom p 0 ls with
    | .error e => .error e
    | .ok table => codeFrom p table 0 ls

/-- The words of a program's text (R85, R89, R90). -/
def assembleText (p : Params) (text : String) : Except AsmError (List InstrWord) :=
  match assembleLines p (splitAtChar '\n' text.toList) with
  | .error e => .error e
  | .ok is => .ok (is.map encode)

end Sys2Proof.Machine
end

