-- ==== Sys2Proof/Tests/Slice0.lean ====
section
/-! SUPPORT. The model's own tests: ill-formed terms, words written out from the encoding (R81, R84), one-step tests whose results
are the spec's vectors (spec/95_test_vectors.md), and a witness for the hypotheses of every statement that has some. -/

namespace Sys2Proof.Tests

open Sys2Proof.Machine

/-! ## Small states -/

/-- The example values of R6, with the clocks supplied and, by default, a refused negative command. -/
def exampleParams : Params :=
  { base := 0, pinA := 0, pinB := 1, pinC := 2, adcChB := 5, tsselCode := 2, pincFsel := .sel0Only,
    negCmdPolicy := .refuse, clocksOk := true }

/-- The launch premise of R244, its draws taken as OUT = 0b111, RES = 0b11 and ADC_MEM0 = 9. -/
def start : State :=
  { dseq := { v := ⟨none, none, none, none⟩, pc := 0, status := .running }
    prog := []
    pin := ⟨7, 0, 0, 0⟩
    conv := ⟨false, false, 0, false, 3, 0, 9, false, false, false⟩
    pulse := ⟨0, 0, 0, 0, 0, 0, 0⟩
    sys := ⟨true, false⟩
    params := exampleParams
    sched := [] }

/-- "Configured" of spec/95_test_vectors.md 2.4: after PIN_CONFIG and ADC_INIT. -/
def configured : State :=
  (start.setPin ⟨6, 5, 6, 2⟩).setConv ⟨false, true, 2, true, 2, 5, 9, false, false, false⟩

/-- The same with a conversion in progress. -/
def sampling : State := configured.setConv { configured.conv with enc := true, pending := true, ok := true }

/-- The same with ENC set and nothing pending. -/
def enabled : State := configured.setConv { configured.conv with enc := true }

/-- The running counter of spec/95_test_vectors.md 2.5, at a given count. -/
def counting (count : Word) : State := start.setPulse ⟨2, 1, count, 3, 7, 2, 2⟩

/-- The reset-like system unit: the watchdog not held, the pins locked. -/
def unheld : State := start.setSys ⟨false, true⟩

/-- The state an instruction leaves. -/
def after (i : Instr) (s : State) : State :=
  match exec i s with
  | .next t => t
  | .fault _ => s
  | .refused _ => s

/-- The state an agent's step leaves. -/
def afterEvent (e : Event) (s : State) : State :=
  match e.fire s with
  | .next t => t
  | .fault _ => s
  | .refused _ => s

/-! ## Ill-formed terms and illegal words (R86, R87; spec/95_test_vectors.md 2.1) -/

theorem test_wellFormed_refuses_zero_divisor : (Instr.divu .v0 .v1 0).wellFormed = false := by decide
theorem test_wellFormed_admits_divisor_one : (Instr.divu .v0 .v1 1).wellFormed = true := by decide
theorem test_decode_reserved_opcodes :
    decode 0x00000000 = .error (.reservedOpcode 0) ∧ decode 0x90000000 = .error (.reservedOpcode 9) ∧
      decode 0xE0000000 = .error (.reservedOpcode 14) := by decide
theorem test_decode_must_be_zero :
    decode 0xF0000001 = .error (.mustBeZero .imm) ∧ decode 0x14240000 = .error (.mustBeZero .rd) ∧
      decode 0x44280000 = .error (.mustBeZero .rd) ∧ decode 0x40280001 = .error (.mustBeZero .imm) ∧
      decode 0x51180000 = .error (.mustBeZero .rs) ∧ decode 0x60010028 = .error (.mustBeZero .addr) ∧
      decode 0x80010000 = .error (.mustBeZero .addr) := by decide
theorem test_decode_zero_divisor : decode 0x60000000 = .error .zeroDivisor := by decide

/-! ## A word of every constructor, its bits as op, rd, rs, addr, imm (R81, R84) -/

theorem test_decode_wr : decode 0b0001_00_00_00100100_0000001111101000#32 = .ok (.wr 0x24 1000) := by decide
theorem test_decode_bis : decode 0b0010_00_00_00010000_0000000000000011#32 = .ok (.bis 0x10 3) := by decide
theorem test_decode_bic : decode 0b0011_00_00_00010100_0000000000110000#32 = .ok (.bic 0x14 0x30) := by decide
theorem test_decode_wrv : decode 0b0100_00_11_00101000_0000000000000000#32 = .ok (.wrv 0x28 .v3) := by decide
theorem test_decode_rd : decode 0b0101_11_00_00011000_0000000000000000#32 = .ok (.rd .v3 0x18) := by decide
theorem test_decode_divu : decode 0b0110_00_01_00000000_0000000000001010#32 = .ok (.divu .v0 .v1 10) := by decide
theorem test_decode_poll : decode 0b0111_00_00_00011010_0000000000000001#32 = .ok (.poll 0x1A 1) := by decide
theorem test_decode_jmp : decode 0b1000_00_00_00000000_1111111111111111#32 = .ok (.jmp 65535) := by decide
theorem test_decode_halt : decode 0b1111_00_00_00000000_0000000000000000#32 = .ok .halt := by decide
theorem test_decode_bytes :
    decodeBytes [0x03, 0x00, 0x10, 0x20, 0xFF] = .ok (.bis 0x10 3, [0xFF]) ∧
      decodeBytes [0x03, 0x00, 0x10] = .error .truncated := by decide
theorem test_decodeTableWord : decodeTableWord 32 0x6500000A = some (.divu .v1 .v1 10) ∧
    decodeTableWord 32 0x60000000 = none := by decide

/-! ## Bus access (spec/95_test_vectors.md 2.2, 2.4, 2.5, 2.7) -/

theorem test_wr_replaces_fields : (after (.wr 0x00 0x0005) start).pin.out = 0b101 := by decide
theorem test_wr_reserved_before_busy :
    (after (.wr 0x10 0x8003) sampling).dseq.status = .refused (.reservedBits 0 0x10 0x8003) := by decide
theorem test_bis_keeps_other_bits :
    (after (.bis 0x02 0x0001) (start.setPin ⟨7, 4, 0, 0⟩)).pin.dir = 0b101 := by decide
theorem test_bis_readonly_before_reserved :
    (after (.bis 0x1A 0x0002) start).dseq.status = .refused (.readonlyWrite 0 0x1A) := by decide
theorem test_bic_clears_reset_draw : (after (.bic 0x14 0x0030) start).conv.res = 0b00 := by decide
theorem test_bic_deselects_pending_pin :
    (after (.bic 0x06 0x0002) sampling).conv.ok = false ∧ (after (.bic 0x06 0x0002) sampling).conv.pending = true := by
  decide
theorem test_wrv_stopped_loads_active :
    (after (.wrv 0x28 .v0) (start.writeV .v0 7)).pulse.ccr1 = 7 ∧
      (after (.wrv 0x28 .v0) (start.writeV .v0 7)).pulse.cmpAct = 7 := by decide
theorem test_wrv_unwritten_before_unmapped :
    (after (.wrv 0x40 .v1) start).dseq.status = .faulted (.unwrittenVreg 0 .v1) := by decide
theorem test_rd_ctl0_shows_pending : (after (.rd .v0 0x10) sampling).readV .v0 = some 0x0213 := by decide
theorem test_rd_mem0_clears_flag :
    (after (.rd .v1 0x18) (configured.finishConversion 2000)).readV .v1 = some 2000 ∧
      (after (.rd .v1 0x18) (configured.finishConversion 2000)).conv.ifg0 = false := by decide

/-! ## Register rules of the units, one step each -/

theorem test_trigger : (after (.bis 0x10 0x0003) configured).conv.ok = true ∧
    (after (.bis 0x10 0x0003) configured).conv.pending = true := by decide
theorem test_trigger_unconfigured : (after (.wr 0x10 0x0003) configured).conv.ok = false := by decide
theorem test_ctl0_locked_before_sc_no_enc :
    (after (.wr 0x10 0x0012) enabled).dseq.status = .refused (.adcCfgLocked 0 0x10 0x0012) := by decide
theorem test_ctl2_draw_refused :
    (after (.bis 0x14 0x0020) (start.setConv { start.conv with res := 1 })).dseq.status =
      .refused (.fieldCode 0 0x14 0x0030) := by decide
theorem test_tclr_latches :
    (after (.wr 0x20 0x0004) ((counting 2).setPulse ⟨2, 1, 2, 3, 7, 5, 2⟩)).pulse = ⟨0, 0, 0, 3, 7, 5, 5⟩ := by decide
theorem test_period_below_count :
    (after (.wr 0x24 1) (counting 2)).dseq.status = .refused (.periodBelowCount 0 1 2) := by decide
theorem test_sys_relock : (after (.bis 0x30 2) start).dseq.status = .refused (.sysRelock 0 3) := by decide

/-! ## Control (spec/95_test_vectors.md 1, 2.6) -/

theorem test_divu_floor : (after (.divu .v0 .v0 40) (start.writeV .v0 4095)).readV .v0 = some 102 := by decide
theorem test_divu_keeps_source :
    (after (.divu .v1 .v0 10) (start.writeV .v0 305)).dseq.v = ⟨some 305, some 30, none, none⟩ := by decide
theorem test_poll_waits : (after (.poll 0x1A 1) start).dseq.pc = 0 := by decide
theorem test_poll_reads_mem0 :
    (after (.poll 0x18 0xFFFF) (configured.finishConversion 3)).dseq.pc = 1 ∧
      (after (.poll 0x18 0xFFFF) (configured.finishConversion 3)).conv.ifg0 = false := by decide
theorem test_jmp : (after (.jmp 3) (start.setPc 7)).dseq.pc = 3 := by decide
theorem test_halt : (after .halt (start.setPc 7)).dseq = ⟨⟨none, none, none, none⟩, 7, .halted⟩ := by decide

/-! ## Agents, levels and the step (spec/95_test_vectors.md 2.3, 2.5, 2.8) -/

theorem test_tick_wraps : (afterEvent .tick (counting 3)).pulse = ⟨2, 1, 0, 3, 7, 2, 2⟩ := by decide
theorem test_timer_trace : timerTrace 5 (counting 0).pulse = [.hi, .hi, .lo, .lo, .hi] := by decide
theorem test_complete_result_range :
    Event.enabled sampling (.complete 4095) = true ∧ Event.enabled sampling (.complete 4096) = false := by decide
theorem test_wires_after_pin_config :
    wire configured .a = .lo ∧ wire configured .b = .undriven ∧ wire configured .c = .lo := by decide
theorem test_fetch_past_program :
    step start = .next (start.setStatus (.faulted (.pcRange 0))) := by rfl
theorem test_withFetchWord_reset_runs :
    step (State.reset.withFetchWord 32 0x80000003) = exec (.jmp 3) (State.reset.withFetchWord 32 0x80000003) := by rfl
theorem test_actuate_terminal :
    actuateInt (-1) (start.raiseFault (.pcRange 0)) = .fault (.pcRange 0) := by rfl
theorem test_bringup_launches :
    (after (.bic 0x30 2) (after (.bis 0x30 1) (start.resetWith ⟨5, 3, 77⟩))).launchedAt 2 :=
  ⟨start, ⟨5, 3, 77⟩, rfl, rfl⟩
theorem test_launched : start.launched := ⟨start, ⟨7, 3, 9⟩, rfl, rfl⟩
/-- HALT with a conversion in progress: the run ends when the conversion completes, and the tick after it is no part of it. -/
theorem test_run_end_is_first :
    (runToEnd 9 (((sampling.setPulse (counting 1).pulse).setProg [0xF0000000]).setSched
      [.dseq, .tick, .complete 7, .tick])).map (fun t => (t.conv.result, t.pulse.count)) = some (7, 2) := by decide
theorem test_actuate_unsigned :
    actuateInt (-1) { start with params := { exampleParams with negCmdPolicy := .unsigned } } =
      .next (writeTmrCcr1 6553 { start with params := { exampleParams with negCmdPolicy := .unsigned } }) := by rfl

/-! ## The assembler and the pseudo-instructions (R85, R89, R206, R245) -/

theorem test_assemble_text :
    assembleText exampleParams "loop: BIS ADC_CTL0, #0x0003 ; start\n POLL @0x1A,#1\nRD v0, ADC_MEM0\n\nJMP loop" =
      .ok [0x20100003, 0x701A0001, 0x50180000, 0x80000000] := by decide
theorem test_assemble_control_main_b :
    assembleText exampleParams "CONTROL_MAIN_B" =
      .ok [0x20300001, 0x30300002, 0x30000001, 0x20020001, 0x20040002, 0x20060002, 0x20040004, 0x20020004, 0x20100210,
        0x20120001, 0x30140030, 0x20140020, 0x20160005, 0x102403E8, 0x102600E0, 0x1028012C, 0x10200214, 0x20100003,
        0x701A0001, 0x50180000, 0x60000028, 0x6000000A, 0x40280000, 0x80000011] := by decide

/-! ## Witnesses: the four write forms -/

theorem writes_wr (r : Reg) (x : Word) (s : State) : Writes (.wr r.off x) r x s := .inl rfl
theorem writes_wrv (r : Reg) (x : Word) (s : State) : Writes (.wrv r.off .v0) r x (s.writeV .v0 x) :=
  .inr (.inl ⟨.v0, rfl, rfl⟩)
theorem writes_bis (r : Reg) (mask : Word) (s : State) : Writes (.bis r.off mask) r (stored r s ||| mask) s :=
  .inr (.inr (.inl ⟨mask, rfl, rfl⟩))
theorem writes_bic (r : Reg) (mask : Word) (s : State) : Writes (.bic r.off mask) r (stored r s &&& ~~~mask) s :=
  .inr (.inr (.inr ⟨mask, rfl, rfl⟩))

/-! ## Witnesses: encoding -/

theorem witness_DecodeOfEncodeIsTheInstruction :
    (Instr.divu .v3 .v1 65535).wellFormed = true ∧ (Instr.wr 0xFF 0).wellFormed = true := by decide
theorem witness_LegalWordIsItsInstructionsEncoding : decode 0x6500000A = .ok (.divu .v1 .v1 10) := by decide
theorem witness_ByteImageDecodes : (Instr.divu .v0 .v0 1).wellFormed = true := by decide

/-! ## Witnesses: the step -/

theorem witness_StepRunsTheDecodedInstruction :
    (start.setProg [0x8000000F]).dseq.status = .running ∧ (start.setProg [0x8000000F]).sched = [] ∧
      (start.setProg [0x8000000F]).prog[0]? = some 0x8000000F ∧ decode 0x8000000F = .ok (.jmp 15) := by decide
theorem witness_StepRunsTheDecodedInstruction_scheduled :
    ∃ es, ((start.setProg [0x8000000F]).setSched [.dseq, .tick]).sched = .dseq :: es := ⟨[.tick], rfl⟩
theorem witness_FetchFaultsAreRecorded :
    start.dseq.status = .running ∧ start.sched = [] ∧ start.prog.length ≤ start.dseq.pc ∧
      (start.setProg [0]).prog[(start.setProg [0]).dseq.pc]? = some 0 ∧ decode 0 = .error (.reservedOpcode 0) := by decide
theorem witness_FaultedAndRefusedAreTerminal :
    (start.raiseFault (.pcRange 0)).dseq.status = .faulted (.pcRange 0) ∧
      (start.raiseRefuse (.unmapped 0 0x40)).dseq.status = .refused (.unmapped 0 0x40) := by decide
theorem witness_HaltedDriverTakesNoStep :
    (start.setStatus .halted).dseq.status = .halted ∧ (start.setStatus .halted).sched = [] := by decide
theorem witness_StepsAreTheInterleavedTransitions :
    step (start.setSched [.complete 0]) = .next start ∧ Transition (counting 3) .tick (afterEvent .tick (counting 3)) ∧
      Transition start .dseq (start.setStatus (.faulted (.pcRange 0))) :=
  ⟨rfl, ⟨rfl, rfl⟩, ⟨rfl, rfl⟩⟩

/-! ## Witnesses: reads and the common checks of writes -/

theorem witness_ReadTable :
    (0x01#8 : RegOff) ∉ [0x00#8, 0x02#8, 0x04#8, 0x06#8, 0x10#8, 0x12#8, 0x14#8, 0x16#8, 0x18#8, 0x1A#8, 0x20#8, 0x22#8,
      0x24#8, 0x26#8, 0x28#8, 0x30#8] := by decide
theorem witness_UnmappedAccessIsRefused :
    ((0xFF#8 : RegOff) ∉ [0x00#8, 0x02#8, 0x04#8, 0x06#8, 0x10#8, 0x12#8, 0x14#8, 0x16#8, 0x18#8, 0x1A#8, 0x20#8, 0x22#8,
      0x24#8, 0x26#8, 0x28#8, 0x30#8]) ∧ (start.writeV .v1 0).readV .v1 = some 0 := by decide
theorem witness_ReadOnlyRegistersRefuseWrites :
    Writes (.wr Reg.tmrR.off 0) .tmrR 0 start ∧ Writes (.wrv Reg.adcMem0.off .v0) .adcMem0 5 (start.writeV .v0 5) ∧
      Writes (.bis Reg.adcIfg.off 2) .adcIfg 2 start ∧ Writes (.bic Reg.adcIfg.off 1) .adcIfg 0 start :=
  ⟨writes_wr _ _ _, writes_wrv _ _ _, writes_bis .adcIfg 2 start, writes_bic .adcIfg 1 start⟩
theorem witness_ReservedBitsAreRefused :
    (Reg.gpioOut, (0x0007 : Word)) ∈ ([
      (.gpioOut, 0x0007), (.gpioDir, 0x0007), (.gpioSel0, 0x0007), (.gpioSel1, 0x0007), (.adcCtl0, 0x0F13),
      (.adcCtl1, 0x0001), (.adcCtl2, 0x0030), (.adcMctl0, 0x000F), (.tmrCtl, 0x0334), (.tmrCcr0, 0xFFFF),
      (.tmrCctl1, 0x00E0), (.tmrCcr1, 0xFFFF), (.sysCtl, 0x0003)] : List (Reg × Word)) ∧
    Writes (.wr Reg.gpioOut.off 8) .gpioOut 8 start ∧ Writes (.bis Reg.gpioOut.off 8) .gpioOut 0x000F start ∧
      (8 : Word) &&& ~~~0x0007 ≠ 0 :=
  ⟨by decide, writes_wr _ _ _, writes_bis .gpioOut 8 start, by decide⟩
theorem witness_AdmittedWriteIsReadBack :
    Writes (.wr Reg.tmrCtl.off 0x0214) .tmrCtl 0x0214 start ∧
      exec (.wr Reg.tmrCtl.off 0x0214) start = .next (after (.wr Reg.tmrCtl.off 0x0214) start) ∧
      start.dseq.status = .running ∧ (after (.wr Reg.tmrCtl.off 0x0214) start).dseq.status = .running ∧
    Writes (.wrv Reg.tmrCcr0.off .v0) .tmrCcr0 0xFFFF (start.writeV .v0 0xFFFF) ∧
      (after (.wrv Reg.tmrCcr0.off .v0) (start.writeV .v0 0xFFFF)).dseq.status = .running :=
  ⟨writes_wr _ _ _, rfl, rfl, rfl, writes_wrv _ _ _, rfl⟩
theorem witness_WriteLeavesOtherRegisters :
    Writes (.wr Reg.tmrCtl.off 0x0014) .tmrCtl 0x0014 (counting 2) ∧
      exec (.wr Reg.tmrCtl.off 0x0014) (counting 2) = .next (after (.wr Reg.tmrCtl.off 0x0014) (counting 2)) ∧
      Reg.tmrR ≠ .tmrCtl ∧ (0x0014 : Word).getLsbD 2 = true ∧
      (after (.wr Reg.tmrCtl.off 0x0014) (counting 2)).dseq.pc ≠ (counting 2).dseq.pc :=
  ⟨writes_wr _ _ _, rfl, by decide, by decide, by decide⟩
theorem witness_WriteFrame :
    Writes (.wr Reg.gpioSel1.off 0) .gpioSel1 0 sampling ∧
      exec (.wr Reg.gpioSel1.off 0) sampling = .next (after (.wr Reg.gpioSel1.off 0) sampling) ∧
      Reg.gpioSel1.unit ≠ .pulse ∧ Reg.gpioSel1.unit ≠ .system ∧ Reg.gpioSel1.unit ≠ .conversion ∧
      Reg.tmrCcr1.unit ≠ .pin ∧ Reg.tmrCcr1.unit ≠ .conversion ∧ Writes (.wr Reg.tmrCcr1.off 1) .tmrCcr1 1 start :=
  ⟨writes_wr _ _ _, rfl, by decide, by decide, by decide, by decide, by decide, writes_wr _ _ _⟩
theorem witness_BicHasNoActionAndNoReservedBits :
    exec (.bic Reg.gpioDir.off 0xFFFF) start = .next (after (.bic Reg.gpioDir.off 0xFFFF) start) ∧
      start.dseq.status = .running := ⟨rfl, rfl⟩
theorem witness_BisTwiceIsBisOnce :
    (0x0210 : Word).getLsbD 1 = false ∧
      exec (.bis Reg.adcCtl0.off 0x0210) start = .next (after (.bis Reg.adcCtl0.off 0x0210) start) ∧
      start.dseq.status = .running ∧ (after (.bis Reg.adcCtl0.off 0x0210) start).dseq.status = .running :=
  ⟨rfl, rfl, rfl, rfl⟩

/-! ## Witnesses: the registers' own rules -/

theorem witness_GpioOutWrites : (0x0005 : Word) &&& 0xFFF8#16 = 0 ∧ (start.writeV .v2 5).readV .v2 = some 5 := by decide
theorem witness_GpioDirWrites : (0x0007 : Word) &&& 0xFFF8#16 = 0 ∧ (start.writeV .v2 7).readV .v2 = some 7 := by decide
theorem witness_GpioSelectWrites :
    Fits .gpioSel0 0x0004 ∧ Writes (.wr Reg.gpioSel0.off 0x0004) .gpioSel0 0x0004 sampling ∧
      Writes (.wr Reg.gpioSel1.off 0x0004) .gpioSel1 0x0004 sampling :=
  ⟨rfl, writes_wr _ _ _, writes_wr _ _ _⟩
theorem witness_AdcCtl0WriteRule :
    Writes (.bis Reg.adcCtl0.off 3) .adcCtl0 0x0213 configured ∧ Fits .adcCtl0 0x0213 :=
  ⟨writes_bis .adcCtl0 3 configured, rfl⟩
theorem witness_PendingConversionRefusesConfiguration :
    sampling.conv.pending = true ∧ Writes (.bis Reg.adcCtl1.off 1) .adcCtl1 1 sampling ∧
      Writes (.wr Reg.adcCtl0.off 0x8003) .adcCtl0 0x8003 sampling :=
  ⟨rfl, writes_bis .adcCtl1 1 sampling, writes_wr _ _ _⟩
theorem witness_EnabledConverterLocksItsConfiguration :
    enabled.conv.pending = false ∧ enabled.conv.enc = true ∧
      (Writes (.wr Reg.adcMctl0.off 6) .adcMctl0 6 enabled ∧ Fits .adcMctl0 6 ∧
        (6 : Word).extractLsb' 0 4 ≠ enabled.conv.inch) ∧
      (Writes (.wr Reg.adcCtl2.off 0x20) .adcCtl2 0x20 enabled ∧ Fits .adcCtl2 0x20 ∧
        (0x20 : Word).extractLsb' 4 2 = enabled.conv.res ∧ enabled.conv.res ≠ 0b11) :=
  ⟨rfl, rfl, ⟨writes_wr _ _ _, rfl, by decide⟩, ⟨writes_wr _ _ _, rfl, rfl, by decide⟩⟩
theorem witness_AdcConfigurationWriteRules :
    configured.conv.pending = false ∧ configured.conv.enc = false ∧
      Writes (.wr Reg.adcCtl1.off 0) .adcCtl1 0 configured ∧ Fits .adcCtl1 0 ∧
      Writes (.wr Reg.adcCtl2.off 0x30) .adcCtl2 0x30 configured ∧ Fits .adcCtl2 0x30 ∧
      Writes (.wr Reg.adcMctl0.off 15) .adcMctl0 15 configured ∧ Fits .adcMctl0 15 :=
  ⟨rfl, rfl, writes_wr _ _ _, rfl, writes_wr _ _ _, rfl, writes_wr _ _ _, rfl⟩
theorem witness_TmrCtlWriteRule :
    Writes (.wr Reg.tmrCtl.off 0x0024) .tmrCtl 0x0024 start ∧ Fits .tmrCtl 0x0024 ∧
      Writes (.wr Reg.tmrCtl.off 0x0014) .tmrCtl 0x0014 start ∧ Fits .tmrCtl 0x0014 :=
  ⟨writes_wr _ _ _, rfl, writes_wr _ _ _, rfl⟩
theorem witness_PeriodWriteRule :
    Writes (.wr Reg.tmrCcr0.off 2) .tmrCcr0 2 (counting 2) ∧ Writes (.wr Reg.tmrCcr0.off 1) .tmrCcr0 1 (counting 2) :=
  ⟨writes_wr _ _ _, writes_wr _ _ _⟩
theorem witness_OutmodWriteRule :
    Writes (.wr Reg.tmrCctl1.off 0x00E0) .tmrCctl1 0x00E0 start ∧ Fits .tmrCctl1 0x00E0 ∧
      Writes (.wr Reg.tmrCctl1.off 0x0080) .tmrCctl1 0x0080 start ∧ Fits .tmrCctl1 0x0080 :=
  ⟨writes_wr _ _ _, rfl, writes_wr _ _ _, rfl⟩
theorem witness_CompareWriteRule :
    Writes (.wrv Reg.tmrCcr1.off .v0) .tmrCcr1 65535 ((counting 1).writeV .v0 65535) ∧
      Writes (.wr Reg.tmrCcr1.off 9) .tmrCcr1 9 start := ⟨writes_wrv _ _ _, writes_wr _ _ _⟩
theorem witness_SysCtlWriteRule :
    Writes (.bic Reg.sysCtl.off 2) .sysCtl 0 unheld ∧ Fits .sysCtl 0 ∧ Writes (.wr Reg.sysCtl.off 3) .sysCtl 3 start ∧
      Fits .sysCtl 3 :=
  ⟨writes_bic .sysCtl 2 unheld, rfl, writes_wr _ _ _, rfl⟩

/-! ## Witnesses: driver registers and control -/

theorem witness_DivuWritesTheQuotient : (40 : Word) ≠ 0 ∧ (start.writeV .v0 4095).readV .v0 = some 4095 := by decide
theorem witness_UnwrittenSourceFaults : start.readV .v2 = none ∧ (10 : Word) ≠ 0 := by decide
theorem witness_JmpSetsPc :
    start.dseq.status = .running ∧ start.sched = [] ∧ start.prog.length ≤ (0 : Word).toNat ∧
      exec (.jmp 0) start = .next (after (.jmp 0) start) := ⟨rfl, rfl, by decide, rfl⟩
theorem witness_HaltStopsTheDriver :
    (sampling.setStatus .halted).dseq.status = .halted ∧ (sampling.setStatus .halted).conv.pending = true ∧
      ((counting 0).setStatus .halted).pulse.mc = 0b01 ∧ (unheld.setStatus .halted).sys.wdtHold = false :=
  ⟨rfl, rfl, rfl, rfl⟩
theorem witness_PcOfEachInstruction :
    start.dseq.status = .running ∧ exec (.poll Reg.gpioOut.off 1) start = .next (after (.poll Reg.gpioOut.off 1) start) ∧
      (after (.poll Reg.gpioOut.off 1) start).dseq.status = .running ∧
      (after .halt start).dseq.status = .halted ∧
      (after (.wr 0x40 0) start).dseq.status ≠ .running ∧ (after (.wr 0x40 0) start).dseq.status ≠ .halted :=
  ⟨rfl, rfl, rfl, rfl, by decide, by decide⟩
theorem witness_RaisingChangesOnlyTheStatus :
    start.dseq.status = .running ∧ exec (.wr 0x40 0) start = .next (after (.wr 0x40 0) start) ∧
      (after (.wr 0x40 0) start).dseq.status ≠ .running ∧ (after (.wr 0x40 0) start).dseq.status ≠ .halted :=
  ⟨rfl, rfl, by decide, by decide⟩
theorem witness_DriverRegistersWrittenOnlyByRdAndDivu :
    exec (.rd .v1 0x00) start = .next (after (.rd .v1 0x00) start) ∧
      (after (.rd .v1 0x00) start).readV .v1 ≠ start.readV .v1 := ⟨rfl, by decide⟩
theorem witness_DriverRegistersReadOnlyByDivuAndWrv :
    (∀ dst src d, Instr.rd .v1 0x00 ≠ .divu dst src d) ∧ (∀ off src, Instr.rd .v1 0x00 ≠ .wrv off src) ∧
      exec (.rd .v1 0x00) start = .next (after (.rd .v1 0x00) start) ∧
      exec (.rd .v1 0x00) { start with dseq := { start.dseq with v := ⟨some 1, some 2, none, none⟩ } } =
        .next (after (.rd .v1 0x00) { start with dseq := { start.dseq with v := ⟨some 1, some 2, none, none⟩ } }) ∧
      (after (.rd .v1 0x00) start).dseq.status = .running :=
  ⟨fun _ _ _ => by simp, fun _ _ => by simp, rfl, rfl, rfl⟩

/-! ## Witnesses: agents and whole-machine rules -/

theorem witness_CompleteStep : Transition sampling (.complete 4095) (sampling.finishConversion 4095) := ⟨rfl, rfl⟩
theorem witness_TickStep : Transition (counting 3) .tick (afterEvent .tick (counting 3)) := ⟨rfl, rfl⟩
theorem witness_WatchdogStep : Transition unheld (.watchdog ⟨5, 3, 77⟩) (unheld.resetWith ⟨5, 3, 77⟩) := ⟨rfl, rfl⟩
/-- A running counter and a conversion in progress. -/
def both : State := sampling.setPulse (counting 3).pulse
theorem witness_TickAndCompleteCommute :
    Transition both .tick (afterEvent .tick both) ∧
      Transition (afterEvent .tick both) (.complete 7) (afterEvent (.complete 7) (afterEvent .tick both)) ∧
      Transition both (.complete 7) (afterEvent (.complete 7) both) ∧
      Transition (afterEvent (.complete 7) both) .tick (afterEvent .tick (afterEvent (.complete 7) both)) :=
  ⟨⟨rfl, rfl⟩, ⟨rfl, rfl⟩, ⟨rfl, rfl⟩, ⟨rfl, rfl⟩⟩
theorem witness_ProgramAndParametersAreFixed : step start = .next (start.setStatus (.faulted (.pcRange 0))) := by rfl
/-- A finished conversion whose result the program reads next. -/
def toRead : State := (configured.finishConversion 2000).setProg [0x50180000]
theorem witness_CompletionFlagAndResult :
    (Transition sampling (.complete 5) (sampling.finishConversion 5) ∧ (sampling.finishConversion 5).conv.ifg0 = true ∧
        sampling.conv.ifg0 = false ∧ (sampling.finishConversion 5).conv.result ≠ sampling.conv.result) ∧
      (Transition toRead .dseq (afterEvent .dseq toRead) ∧ (afterEvent .dseq toRead).conv.ifg0 = false ∧
        toRead.conv.ifg0 = true) :=
  ⟨⟨⟨rfl, rfl⟩, rfl, rfl, by decide⟩, ⟨⟨rfl, rfl⟩, rfl, rfl⟩⟩
/-- A running counter, past zero, with a compare value waiting and a TMR_CTL clear as the next instruction. -/
def toClear : State := (start.setPulse ⟨2, 1, 2, 3, 7, 9, 2⟩).setProg [0x10200214]
theorem witness_CounterChangesOnlyByTickClearAndReset :
    Transition toClear .dseq (afterEvent .dseq toClear) ∧ (afterEvent .dseq toClear).pulse.count ≠ toClear.pulse.count :=
  ⟨⟨rfl, rfl⟩, by decide⟩
theorem witness_CompareLatchesOnlyAtABoundary :
    (Transition (counting 3) .tick (afterEvent .tick (counting 3)) ∧
        (counting 3).pulse.period.toNat ≤ (counting 3).pulse.count.toNat) ∧
      Transition toClear .dseq (afterEvent .dseq toClear) ∧ fetch toClear = .ok (.wr Reg.tmrCtl.off 0x0214) ∧
      Writes (.wr Reg.tmrCtl.off 0x0214) .tmrCtl 0x0214 toClear ∧ (0x0214 : Word).getLsbD 2 = true ∧
      (afterEvent .dseq toClear).dseq.status = .running ∧ toClear.pulse.mc = 0b01 ∧
      (afterEvent .dseq toClear).pulse.cmpAct ≠ toClear.pulse.cmpAct :=
  ⟨⟨⟨rfl, rfl⟩, by decide⟩, ⟨rfl, rfl⟩, rfl, writes_wr _ _ _, rfl, rfl, rfl, by decide⟩
/-- A pin write as the next instruction. -/
def toDrive : State := start.setProg [0x30000001]
theorem witness_PinUnitChangesOnlyByItsWrites :
    Transition toDrive .dseq (afterEvent .dseq toDrive) ∧ (afterEvent .dseq toDrive).pin ≠ toDrive.pin :=
  ⟨⟨rfl, rfl⟩, by decide⟩
theorem witness_BringUpIsOneWay :
    Transition (counting 3) .tick (afterEvent .tick (counting 3)) ∧ (counting 3).sys.wdtHold = true ∧
      (counting 3).sys.pinLock = false := ⟨⟨rfl, rfl⟩, rfl, rfl⟩
theorem witness_EveryStepKeepsTheInvariant :
    Inv sampling ∧ step (sampling.setSched [.complete 1]) = .next (sampling.finishConversion 1) ∧
      Inv (sampling.setSched [.complete 1]) :=
  have h : Inv sampling := ⟨BitVec.le_refl _, ⟨.inl rfl, .inl rfl⟩, fun _ => ⟨rfl, fun _ => rfl⟩⟩
  ⟨h, rfl, h⟩

/-! ## Witnesses: fair executions -/

/-- A halted driver and a conversion in progress, with the counter stopped. -/
def waiting : State := sampling.setStatus .halted

/-- The conversion completes, and then nothing moves. -/
def completingRun : Execution where
  state
    | 0 => waiting
    | _ + 1 => waiting.finishConversion 7
  event
    | 0 => some (.complete 7)
    | _ + 1 => none
  follows n := by
    cases n with
    | zero => exact ⟨rfl, rfl⟩
    | succ n => rfl

theorem witness_ConfiguredConversionCompletes :
    completingRun.fair ∧ (completingRun.state 0).clean = true ∧ (completingRun.state 0).conv.pending = true ∧
      (completingRun.state 0).conv.ok = true := by
  refine ⟨fun a n h => ?_, rfl, rfl, rfl⟩
  have h1 := h (n + 1) (Nat.le_succ n)
  cases a <;> exact absurd (show fairlyEnabled (waiting.finishConversion 7) _ = true from h1) (by decide)

/-- A halted driver and a counter of period 3 in up mode. -/
def wrapping : State := (counting 0).setStatus .halted

/-- The counter ticks for ever. -/
def wrappingState : Nat → State
  | 0 => wrapping
  | n + 1 => (wrappingState n).setPulse (wrappingState n).pulse.tick

/-- A tick leaves the mode, the clock source and the period. -/
theorem tick_keeps (u : PulseUnit) : u.tick.mc = u.mc ∧ u.tick.tssel = u.tssel ∧ u.tick.period = u.period := by
  unfold PulseUnit.tick
  split <;> exact ⟨rfl, rfl, rfl⟩

theorem wrappingState_keeps (n : Nat) :
    (wrappingState n).dseq = wrapping.dseq ∧ (wrappingState n).conv = wrapping.conv ∧
      (wrappingState n).params = exampleParams ∧ (wrappingState n).pulse.mc = 0b01 ∧ (wrappingState n).pulse.tssel = 2 ∧
      (wrappingState n).pulse.period = 3 := by
  induction n with
  | zero => exact ⟨rfl, rfl, rfl, rfl, rfl, rfl⟩
  | succ n ih =>
    obtain ⟨h1, h2, h3, h4, h5, h6⟩ := ih
    obtain ⟨t1, t2, t3⟩ := tick_keeps (wrappingState n).pulse
    exact ⟨h1, h2, h3, t1.trans h4, t2.trans h5, t3.trans h6⟩

def wrappingRun : Execution where
  state := wrappingState
  event _ := some .tick
  follows n := by
    obtain ⟨h1, _, _, h4, _⟩ := wrappingState_keeps n
    exact ⟨by simp only [Event.enabled, h1, h4]; rfl, rfl⟩

theorem witness_FairCounterReturnsToZero :
    wrappingRun.fair ∧ (∀ m, 0 ≤ m → (wrappingRun.state m).pulse.mc = 0b01 ∧
      (wrappingRun.state m).pulse.tssel = (wrappingRun.state m).params.tsselCode ∧
      (wrappingRun.state m).params.clocksOk = true ∧ (wrappingRun.state m).clean = true ∧
      (wrappingRun.state m).pulse.period = (wrappingRun.state 0).pulse.period) ∧
      (wrappingRun.state 1).pulse.count ≠ 0 := by
  refine ⟨fun a n h => ?_, fun m _ => ?_, by decide⟩
  · have h0 := h n (Nat.le_refl n)
    obtain ⟨h1, h2, _⟩ := wrappingState_keeps n
    cases a with
    | tmr => exact ⟨n, Nat.le_refl n, rfl⟩
    | dseq =>
      simp only [fairlyEnabled, Event.enabled, wrappingRun, h1] at h0
      exact absurd h0 (by decide)
    | adc =>
      simp only [fairlyEnabled, wrappingRun, h1, h2] at h0
      exact absurd h0 (by decide)
    | wdt => exact absurd h0 (by simp [fairlyEnabled])
  · obtain ⟨h1, _, h3, h4, h5, h6⟩ := wrappingState_keeps m
    refine ⟨h4, ?_, ?_, ?_, h6⟩
    · simp only [wrappingRun, h3, h5]; rfl
    · simp only [wrappingRun, h3]; rfl
    · simp only [wrappingRun, State.clean, h1]; rfl

/-! ## Witnesses: outputs and actuation -/

theorem witness_WireLevels :
    unheld.sys.pinLock = true ∧ start.sys.pinLock = false ∧ start.pin.sel1.getLsbD 2 = false ∧
      start.pin.sel0.getLsbD 2 = false ∧ configured.sys.pinLock = false ∧
      (start.setPin ⟨0, 0, 1, 0⟩).pin.sel0.getLsbD 0 = true ∧ configured.pin.sel1.getLsbD 1 = true ∧
      configured.pin.sel0.getLsbD 1 = true ∧
      (start.setPin ⟨0, 0, 2, 0⟩).pin.sel1.getLsbD 1 ≠ (start.setPin ⟨0, 0, 2, 0⟩).pin.sel0.getLsbD 1 ∧
      configured.pin.sel0.getLsbD 2 = true ∧ configured.params.pincFsel = .sel0Only := by decide
/-- A selected Pin C under the code SEL1 alone is no timer output where PINC_FSEL is SEL0 alone. -/
theorem test_wire_c_other_code : wire (start.setPin ⟨0, 4, 0, 4⟩) .c = .undef := by decide
theorem witness_TimerOutputLevel :
    start.pulse.outmod = 0b000 ∧ (counting 0).pulse.outmod = 0b111 ∧ (counting 0).pulse.mc = 0b01 ∧
      (⟨2, 0, 0, 3, 7, 2, 2⟩ : PulseUnit).outmod ≠ 0b000 ∧
      ¬ ((⟨2, 0, 0, 3, 7, 2, 2⟩ : PulseUnit).outmod = 0b111 ∧ (⟨2, 0, 0, 3, 7, 2, 2⟩ : PulseUnit).mc = 0b01) := by decide
theorem witness_HighTicksOfAPeriod :
    (counting 0).pulse.mc = 0b01 ∧ (counting 0).pulse.outmod = 0b111 ∧ (counting 0).pulse.count = 0 := by decide
theorem witness_IntegerActuation :
    start.dseq.status = .running ∧ (start.raiseFault (.pcRange 0)).dseq.status = .faulted (.pcRange 0) ∧
      (start.raiseRefuse (.negCommand (-1))).dseq.status = .refused (.negCommand (-1)) ∧
      (0 : Int) ≤ 65535 ∧ (65535 : Int) ≤ 65535 ∧ (-1 : Int) < 0 ∧ start.params.negCmdPolicy = .refuse ∧
      ({ exampleParams with negCmdPolicy := .unsigned } : Params).negCmdPolicy = .unsigned ∧
      ({ exampleParams with negCmdPolicy := .cTrunc } : Params).negCmdPolicy = .cTrunc := by decide

end Sys2Proof.Tests
end

section
/-! SUPPORT. What a transition, a DSEQ move and an instruction can do to the driver, the flags and the counter, said once;
the frame of an admitted register write; and how an instruction depends on the driver registers. -/

namespace Sys2Proof.Machine

/-! ## When an agent may step -/

/-- The status is live exactly while the machine is Running or Halted (R26). -/
theorem Status.live_iff (st : Status) : st.live = true ↔ st = .running ∨ st = .halted := by
  cases st <;> simp [Status.live]

/-- Every agent's step needs a Running or Halted machine (R26). -/
theorem Event.live_of_enabled {s : State} {e : Event} (h : e.enabled s = true) : s.dseq.status.live = true := by
  cases e with
  | dseq => rw [show s.dseq.status = .running by simpa [Event.enabled] using h]; rfl
  | complete r => simp only [Event.enabled, Bool.and_eq_true] at h; exact h.1.1
  | tick => simp only [Event.enabled, Bool.and_eq_true] at h; exact h.1
  | watchdog d => simp only [Event.enabled, Bool.and_eq_true] at h; exact h.1

theorem not_transition_of_not_live {s : State} (h : s.dseq.status.live = false) (e : Event) (t : State) :
    ¬ Transition s e t := by
  rintro ⟨he, -⟩
  simp [Event.live_of_enabled he] at h

/-- What a transition can do: a fetch fault or the fetched instruction, a completion, a tick, or a reset (R70, R225). -/
theorem transition_cases {s t : State} {e : Event} (h : Transition s e t) :
    (e = .dseq ∧ ((∃ f, fetch s = .error f ∧ t = s.raiseFault f) ∨ ∃ i, fetch s = .ok i ∧ exec i s = .next t)) ∨
    (∃ r, e = .complete r ∧ t = s.finishConversion r) ∨ (e = .tick ∧ t = s.setPulse s.pulse.tick) ∨
    ∃ d, e = .watchdog d ∧ t = s.resetWith d := by
  obtain ⟨-, hf⟩ := h
  cases e with
  | dseq => exact .inl ⟨rfl, dseqStep_cases hf⟩
  | complete r => exact .inr (.inl ⟨r, rfl, (Host.Outcome.next.inj hf).symm⟩)
  | tick => exact .inr (.inr (.inl ⟨rfl, (Host.Outcome.next.inj hf).symm⟩))
  | watchdog d => exact .inr (.inr (.inr ⟨d, rfl, (Host.Outcome.next.inj hf).symm⟩))

/-- No transition changes the program or the parameters (R25, R240, R243). -/
theorem transition_fixed {s t : State} {e : Event} (h : Transition s e t) : t.prog = s.prog ∧ t.params = s.params := by
  obtain ⟨-, ⟨f, -, rfl⟩ | ⟨i, -, hx⟩⟩ | ⟨r, -, rfl⟩ | ⟨-, rfl⟩ | ⟨d, -, rfl⟩ := transition_cases h
  · exact ⟨rfl, rfl⟩
  · obtain ⟨hprog, hparams, -⟩ := exec_fixed hx
    exact ⟨hprog, hparams⟩
  all_goals exact ⟨rfl, rfl⟩

/-! ## The step that the schedule gives to the DSEQ -/

theorem nextEvent_eq_dseq {s : State} (h : s.sched = [] ∨ ∃ es, s.sched = .dseq :: es) : nextEvent s = .dseq := by
  rcases h with h | ⟨es, h⟩ <;> simp [nextEvent, h]

/-- A Running machine whose schedule lets the DSEQ move takes a DSEQ step (R200, log 2). -/
theorem step_eq_dseqStep {s : State} (hrun : s.dseq.status = .running) (h : nextEvent s = .dseq) :
    step s = dseqStep (takeEvent s) := by
  have hen : Event.enabled (takeEvent s) .dseq = true := by simp [Event.enabled, takeEvent, hrun]
  simp [step, hrun, agentStep, h, hen, Event.fire]

/-- A Halted machine whose schedule lets the DSEQ move only drops the schedule's entry (R204, log 4). -/
theorem step_eq_takeEvent {s : State} (hhalt : s.dseq.status = .halted) (h : nextEvent s = .dseq) :
    step s = .next (takeEvent s) := by
  have hen : Event.enabled (takeEvent s) .dseq = false := by simp [Event.enabled, takeEvent, hhalt]
  simp [step, hhalt, agentStep, h, hen]

/-- The fetch reads the program and pc only. -/
@[simp] theorem fetch_takeEvent (s : State) : fetch (takeEvent s) = fetch s := rfl

theorem fetch_pcRange {s : State} (h : s.prog.length ≤ s.dseq.pc) : fetch s = .error (.pcRange s.dseq.pc) := by
  simp [fetch, List.getElem?_eq_none h]

theorem fetch_illegalOp {s : State} {w : InstrWord} {e : DecodeError} (hw : s.prog[s.dseq.pc]? = some w)
    (he : decode w = .error e) : fetch s = .error (.illegalOp s.dseq.pc w) := by
  simp [fetch, hw, he]

theorem dseqStep_of_fetch_error {s : State} {f : Fault} (h : fetch s = .error f) : dseqStep s = .next (s.raiseFault f) := by
  simp [dseqStep, h]

/-! ## Operands -/

/-- An unwritten source raises its fault, whatever the use (R21, R224). -/
theorem withSource_unwritten {src : VReg} {s : State} (h : s.readV src = none) (use : Word → Answer) :
    withSource src s use = .next (s.raiseFault (.unwrittenVreg s.dseq.pc src)) := by
  simp [withSource, h]

/-! ## Writes -/

/-- A write instruction is refused, with only the status changed, or its register's rule admits the value (R107, R220). -/
theorem exec_writes_cases {i : Instr} {r : Reg} {x : Word} {s t : State} (hw : Writes i r x s) (h : exec i s = .next t) :
    (∃ e, t = s.raiseRefuse e) ∨ ∃ s', writeReg r x s = .ok s' ∧ t = s'.advance := by
  rw [exec_of_writes hw, regWrite_off, commit, Host.Outcome.next.injEq] at h
  split at h
  · exact .inl ⟨_, h.symm⟩
  · split at h
    · exact .inl ⟨_, h.symm⟩
    · cases hwr : writeReg r x s with
      | error e => rw [hwr] at h; exact .inl ⟨e, h.symm⟩
      | ok s' => rw [hwr] at h; exact .inr ⟨s', rfl, h.symm⟩

/-- An admitted write leaves the units its register does not belong to, but for conv_ok under a pin write (R107, R125). -/
theorem writeReg_unit_frame {r : Reg} {x : Word} {s t : State} (h : writeReg r x s = .ok t) :
    (r.unit ≠ .pin → t.pin = s.pin) ∧ (r.unit ≠ .pulse → t.pulse = s.pulse) ∧ (r.unit ≠ .system → t.sys = s.sys) ∧
      (r.unit ≠ .conversion → { t.conv with ok := s.conv.ok } = s.conv) ∧
      (r.unit ≠ .conversion → r.unit ≠ .pin → t.conv = s.conv) := by
  cases hu : r.unit with
  | pin =>
    obtain ⟨-, -, hpulse, hsys, -, -, hconv, -⟩ := writePin_frame hu h
    exact ⟨fun hn => absurd rfl hn, fun _ => hpulse, fun _ => hsys, fun _ => by rw [hconv], fun _ hn => absurd rfl hn⟩
  | conversion =>
    rw [(writeConv_frame hu h).2.1]
    simp
  | pulse =>
    rw [(writePulse_frame hu h).1]
    simp
  | system =>
    rw [(writeSys_frame hu h).1]
    simp

/-! ## Reads -/

/-- The effect of a read leaves the driver. -/
@[simp] theorem readEffect_dseq (r : Reg) (s : State) : (readEffect r s).dseq = s.dseq := by
  rw [readEffect_eq]; rfl

/-- A read leaves RESULT, and it clears IFG0 if it is the read of ADC_MEM0, else leaves it (R147). -/
theorem readEffect_result_ifg0 (r : Reg) (s : State) :
    (readEffect r s).conv.result = s.conv.result ∧
      ((readEffect r s).conv.ifg0 = s.conv.ifg0 ∨ (readEffect r s).conv.ifg0 = false ∧ r = .adcMem0) := by
  by_cases hr : r = .adcMem0 <;> simp [readEffect_eq, hr]

/-! ## pc, the driver registers and the completion flag under an instruction -/

/-- Where pc stands after an instruction that is neither faulted nor refused (R24). -/
def nextPc (s : State) : Instr → Nat
  | .poll off mask =>
    match Reg.ofOff off with
    | none => s.dseq.pc
    | some r => if stored r s &&& mask = 0 then s.dseq.pc else s.dseq.pc + 1
  | .jmp target => target.toNat
  | .halt => s.dseq.pc
  | .wr _ _ | .bis _ _ | .bic _ _ | .wrv _ _ | .rd _ _ | .divu _ _ _ => s.dseq.pc + 1

theorem nextPc_of_writes {i : Instr} {r : Reg} {x : Word} {s : State} (h : Writes i r x s) :
    nextPc s i = s.dseq.pc + 1 ∧ i ≠ .halt := by
  rcases h with rfl | ⟨src, rfl, -⟩ | ⟨mask, rfl, -⟩ | ⟨mask, rfl, -⟩ <;> simp [nextPc]

/-- An instruction raises a fault or a refusal, or it completes: pc moves as its rule says, and only HALT changes the
status (R24, R204, R220). -/
theorem exec_raises_or_completes {i : Instr} {s t : State} (h : exec i s = .next t) :
    (∃ f, t = s.raiseFault f) ∨ (∃ e, t = s.raiseRefuse e) ∨
      t.dseq.pc = nextPc s i ∧ t.dseq.status = if i = .halt then .halted else s.dseq.status := by
  rcases exec_cases h with ⟨r, x, s', hw, -, -, hwr, rfl⟩ | hf | he | ⟨dst, r, rfl, rfl⟩ |
    ⟨dst, src, d, x, rfl, -, -, rfl⟩ | ⟨r, mask, rfl, rfl⟩ | ⟨target, rfl, rfl⟩ | ⟨rfl, rfl⟩
  · obtain ⟨hpc, hne⟩ := nextPc_of_writes hw
    simp [(writeReg_frame hwr).1, hpc, hne]
  · exact .inl hf
  · exact .inr (.inl he)
  · simp [nextPc]
  · simp [nextPc]
  · by_cases hz : stored r s &&& mask = 0#16 <;> simp [nextPc, hz]
  · simp [nextPc]
  · simp [nextPc]

/-- An instruction leaves the driver registers, or is an RD or a DIVU and writes its destination (R22). -/
theorem exec_vregs {i : Instr} {s t : State} (h : exec i s = .next t) :
    t.dseq.v = s.dseq.v ∨
      ∃ dst x, t.dseq.v = s.dseq.v.set dst x ∧ ((∃ off, i = .rd dst off) ∨ ∃ src d, i = .divu dst src d) := by
  rcases exec_cases h with ⟨r, x, s', -, -, -, hwr, rfl⟩ | ⟨f, rfl⟩ | ⟨e, rfl⟩ | ⟨dst, r, hi, rfl⟩ |
    ⟨dst, src, d, x, hi, -, -, rfl⟩ | ⟨r, mask, -, rfl⟩ | ⟨target, -, rfl⟩ | ⟨-, rfl⟩
  · exact .inl (by simp [(writeReg_frame hwr).1])
  · exact .inl rfl
  · exact .inl rfl
  · exact .inr ⟨dst, stored r s, by simp, .inl ⟨r.off, hi⟩⟩
  · exact .inr ⟨dst, x / d, rfl, .inr ⟨src, d, hi⟩⟩
  · left; split <;> simp
  · exact .inl rfl
  · exact .inl rfl

/-- No instruction changes RESULT; one that changes IFG0 reads ADC_MEM0 and clears it (R37, R38, R147). -/
theorem exec_result_ifg0 {i : Instr} {s t : State} (h : exec i s = .next t) :
    t.conv.result = s.conv.result ∧ (t.conv.ifg0 = s.conv.ifg0 ∨
      t.conv.ifg0 = false ∧ ((∃ dst, i = .rd dst Reg.adcMem0.off) ∨ ∃ mask, i = .poll Reg.adcMem0.off mask)) := by
  rcases exec_cases h with ⟨r, x, s', -, -, -, hwr, rfl⟩ | ⟨f, rfl⟩ | ⟨e, rfl⟩ | ⟨dst, r, rfl, rfl⟩ |
    ⟨dst, src, d, x, -, -, -, rfl⟩ | ⟨r, mask, rfl, rfl⟩ | ⟨target, -, rfl⟩ | ⟨-, rfl⟩
  · obtain ⟨hres, hifg⟩ := writeReg_result hwr
    exact ⟨hres, .inl hifg⟩
  · exact ⟨rfl, .inl rfl⟩
  · exact ⟨rfl, .inl rfl⟩
  · obtain ⟨hres, hifg | ⟨hifg, rfl⟩⟩ := readEffect_result_ifg0 r s
    · exact ⟨hres, .inl hifg⟩
    · exact ⟨hres, .inr ⟨hifg, .inl ⟨dst, rfl⟩⟩⟩
  · exact ⟨rfl, .inl rfl⟩
  · have hconv : (if stored r s &&& mask ≠ 0 then (readEffect r s).advance else readEffect r s).conv =
        (readEffect r s).conv := by split <;> rfl
    rw [hconv]
    obtain ⟨hres, hifg | ⟨hifg, rfl⟩⟩ := readEffect_result_ifg0 r s
    · exact ⟨hres, .inl hifg⟩
    · exact ⟨hres, .inr ⟨hifg, .inr ⟨mask, rfl⟩⟩⟩
  · exact ⟨rfl, .inl rfl⟩
  · exact ⟨rfl, .inl rfl⟩

/-- An instruction that changes the counter is a write of TMR_CTL with TCLR set, and it leaves the counter at 0
(R172, R173). -/
theorem exec_count {i : Instr} {s t : State} (h : exec i s = .next t) :
    t.pulse.count = s.pulse.count ∨ t.pulse.count = 0 ∧ ∃ x, Writes i .tmrCtl x s ∧ x.getLsbD 2 = true := by
  rcases exec_pulse h with hp | ⟨r, x, s', hw, hu, hwr, rfl⟩
  · exact .inl (by rw [hp])
  · obtain ⟨-, ⟨rfl, -, -, -, -, ⟨hc, -⟩ | ⟨hx, hc, -⟩⟩ | ⟨-, -, hp⟩ | ⟨-, -, hp⟩ | ⟨-, hp, -⟩⟩ :=
      writePulse_frame hu hwr
    · exact .inl hc
    · exact .inr ⟨hc, x, hw, hx⟩
    all_goals exact .inl (by rw [State.advance_pulse, hp])

/-! ## Instructions on other driver registers (R22) -/

theorem settle_setV (s : State) (w : Except Refusal State) (v : VRegs) :
    settle (s.setV v) (w.map (State.setV · v)) = (settle s w).setV v := by
  cases w <;> rfl

theorem regWrite_setV (off : RegOff) (x : Word) (s : State) (v : VRegs) :
    regWrite off x (s.setV v) = (regWrite off x s).map (State.setV · v) := by
  cases ho : Reg.ofOff off with
  | none => rw [regWrite_unmapped ho, regWrite_unmapped ho]; rfl
  | some r =>
    obtain rfl := (Reg.ofOff_eq_some off r).1 ho
    rw [regWrite_off, regWrite_off, writeReg_setV, map_setV_ite, map_setV_ite]
    rfl

theorem regModify_setV (off : RegOff) (f : Word → Word) (s : State) (v : VRegs) :
    regModify off f (s.setV v) = (regModify off f s).map (State.setV · v) := by
  cases ho : Reg.ofOff off with
  | none => rw [regModify_unmapped ho, regModify_unmapped ho]; rfl
  | some r =>
    obtain rfl := (Reg.ofOff_eq_some off r).1 ho
    rw [regModify_off, regModify_off, stored_setV, regWrite_setV]

theorem readEffect_setV (r : Reg) (s : State) (v : VRegs) : readEffect r (s.setV v) = (readEffect r s).setV v := by
  cases r <;> rfl

theorem regRead_setV (off : RegOff) (s : State) (v : VRegs) :
    regRead off (s.setV v) = (regRead off s).map fun p => (p.1, p.2.setV v) := by
  cases ho : Reg.ofOff off with
  | none => simp [regRead, ho, Except.map]
  | some r => simp [regRead, ho, Except.map, readEffect_setV]

theorem commit_setV (s : State) (w : Except Refusal State) (v : VRegs) :
    commit (s.setV v) (w.map (State.setV · v)) = .next ((settle s w).setV v) := by
  rw [commit, settle_setV]

/-- An instruction other than WRV and DIVU does the same whatever the driver registers hold; only an RD that completes
changes them, and it writes the same value (R22). -/
theorem exec_setV {i : Instr} {s t : State} (hdivu : ∀ dst src d, i ≠ .divu dst src d)
    (hwrv : ∀ off src, i ≠ .wrv off src) (h : exec i s = .next t) (v : VRegs) :
    ∃ v', exec i (s.setV v) = .next (t.setV v') ∧
      ∀ dst off, i = .rd dst off → t.dseq.status = .running → v'.get dst = t.dseq.v.get dst := by
  cases i with
  | wr off imm =>
    obtain rfl := Host.Outcome.next.inj h
    exact ⟨v, by rw [exec, execWr, regWrite_setV, commit_setV], nofun⟩
  | bis off mask =>
    obtain rfl := Host.Outcome.next.inj h
    exact ⟨v, by rw [exec, execBis, regModify_setV, commit_setV], nofun⟩
  | bic off mask =>
    obtain rfl := Host.Outcome.next.inj h
    exact ⟨v, by rw [exec, execBic, regModify_setV, commit_setV], nofun⟩
  | wrv off src => exact absurd rfl (hwrv off src)
  | rd dst off =>
    cases hr : regRead off s with
    | error e =>
      rw [exec, execRd, hr] at h
      obtain rfl := Host.Outcome.next.inj h
      exact ⟨v, by rw [exec, execRd, regRead_setV, hr]; rfl, nofun⟩
    | ok p =>
      rw [exec, execRd, hr] at h
      obtain rfl := Host.Outcome.next.inj h
      refine ⟨v.set dst p.1, by rw [exec, execRd, regRead_setV, hr]; rfl, ?_⟩
      rintro _ _ ⟨rfl, rfl⟩ -
      simp
  | divu dst src d => exact absurd rfl (hdivu dst src d)
  | poll off mask =>
    cases hr : regRead off s with
    | error e =>
      rw [exec, execPoll, hr] at h
      obtain rfl := Host.Outcome.next.inj h
      exact ⟨v, by rw [exec, execPoll, regRead_setV, hr]; rfl, nofun⟩
    | ok p =>
      rw [exec, execPoll, hr] at h
      obtain rfl := Host.Outcome.next.inj h
      refine ⟨v, ?_, nofun⟩
      rw [exec, execPoll, regRead_setV, hr]
      simp only [Except.map]
      split <;> rfl
  | jmp target =>
    obtain rfl := Host.Outcome.next.inj h
    exact ⟨v, rfl, nofun⟩
  | halt =>
    obtain rfl := Host.Outcome.next.inj h
    exact ⟨v, rfl, nofun⟩

end Sys2Proof.Machine
end

section
/-! PROOFS. The obligations on the state: what each instruction, agent and step may change, and power-on. -/

namespace Sys2Proof.Machine

/-- Settles O18: a refused write changes only the status, and an admitted one the unit of its register. -/
theorem writeFrame : Obligations.WriteFrame := by
  intro s t i r x hw h
  obtain ⟨e, rfl⟩ | ⟨s', hwr, rfl⟩ := exec_writes_cases hw h
  · simp
  · obtain ⟨hdseq, hprog, hparams, hsched⟩ := writeReg_frame hwr
    have hunits := writeReg_unit_frame hwr
    exact ⟨by rw [State.advance_dseq_v, hdseq], hprog, hparams, hsched, hunits⟩

/-- Settles O38: what completes moves pc to `nextPc`, and what is raised leaves it. -/
theorem pcOfEachInstruction : Obligations.PcOfEachInstruction := by
  intro s t i hrun h
  obtain ⟨f, rfl⟩ | ⟨e, rfl⟩ | ⟨hpc, hst⟩ := exec_raises_or_completes h
  · simp
  · simp
  · refine ⟨fun _ => ⟨?_, ?_, ?_, ?_, ?_, ?_⟩, fun hr hh => ?_⟩
    · rintro off x (rfl | rfl | rfl) <;> exact hpc
    · rintro off v (rfl | rfl) <;> exact hpc
    · rintro dst src d rfl
      exact hpc
    · rintro r mask rfl
      simpa [nextPc] using hpc
    · rintro target rfl
      exact hpc
    · rintro rfl
      exact ⟨hpc, hst⟩
    · rw [hrun] at hst
      split at hst
      · exact absurd hst hh
      · exact absurd hst hr

/-- Settles O40, from the one destination an instruction may write. -/
theorem driverRegistersWrittenOnlyByRdAndDivu : Obligations.DriverRegistersWrittenOnlyByRdAndDivu := by
  intro s t i v h hne
  obtain hv | ⟨dst, x, hv, hi⟩ := exec_vregs h
  · exact absurd (congrArg (VRegs.get · v) hv) hne
  · obtain rfl : v = dst := by
      by_contra hvd
      exact hne ((congrArg (VRegs.get · v) hv).trans (VRegs.get_set_other _ _ _ _ hvd))
    exact hi

/-- Settles O41: the two runs end in states that differ in the driver registers only. -/
theorem driverRegistersReadOnlyByDivuAndWrv : Obligations.DriverRegistersReadOnlyByDivuAndWrv := by
  intro s t t' i v hdivu hwrv h h'
  obtain ⟨v', hv', hrd⟩ := exec_setV hdivu hwrv h v
  obtain rfl := Host.Outcome.next.inj (h'.symm.trans hv')
  exact ⟨rfl, hrd⟩

/-- Settles O44: enabledness is liveness and WDTHOLD = 0, and the effect is the reset event. -/
theorem watchdogStep : Obligations.WatchdogStep := by
  refine ⟨fun s t d => ?_, fun _ => rfl⟩
  have hfire : Event.fire s (.watchdog d) = .next t ↔ t = s.resetWith d := by simp [Event.fire, eq_comm]
  rw [Transition, hfire]
  simp only [Event.enabled, Bool.and_eq_true, Bool.not_eq_true', Status.live_iff, and_assoc]
  rfl

/-- Settles O47: a step takes the schedule's entry and makes at most one transition. -/
theorem programAndParametersAreFixed : Obligations.ProgramAndParametersAreFixed := by
  intro s t h
  obtain rfl | htr := step_cases h
  · exact ⟨rfl, rfl⟩
  · obtain ⟨hprog, hparams⟩ := transition_fixed htr
    exact ⟨hprog, hparams⟩

/-- Settles O48, transition by transition. -/
theorem completionFlagAndResult : Obligations.CompletionFlagAndResult := by
  intro s t e h
  obtain ⟨rfl, ⟨f, -, rfl⟩ | ⟨i, hf, hx⟩⟩ | ⟨r, rfl, rfl⟩ | ⟨rfl, rfl⟩ | ⟨d, rfl, rfl⟩ := transition_cases h
  · simp +contextual
  · obtain ⟨hres, hifg⟩ := exec_result_ifg0 hx
    refine ⟨fun ht hs => ?_, fun hne => absurd hres hne, fun ht hs => .inr ⟨rfl, ?_⟩⟩
    · obtain hifg | ⟨hifg, -⟩ := hifg <;> simp [hifg, hs] at ht
    · obtain hifg | ⟨-, ⟨dst, rfl⟩ | ⟨mask, rfl⟩⟩ := hifg
      · simp [hifg, hs] at ht
      · exact .inl ⟨dst, hf⟩
      · exact .inr ⟨mask, hf⟩
  · exact ⟨fun _ _ => ⟨r, rfl⟩, fun _ => .inl ⟨r, rfl⟩, nofun⟩
  · simp +contextual
  · exact ⟨nofun, fun _ => .inr ⟨d, rfl⟩, fun _ _ => .inl ⟨d, rfl⟩⟩

/-- Settles O49: of the DSEQ's instructions only a TMR_CTL write with TCLR changes the counter. -/
theorem counterChangesOnlyByTickClearAndReset : Obligations.CounterChangesOnlyByTickClearAndReset := by
  intro s t e h hne
  obtain ⟨rfl, ⟨f, -, rfl⟩ | ⟨i, hf, hx⟩⟩ | ⟨r, rfl, rfl⟩ | ⟨rfl, rfl⟩ | ⟨d, rfl, rfl⟩ := transition_cases h
  · exact absurd rfl hne
  · obtain hc | ⟨hc, x, hw, hx⟩ := exec_count hx
    · exact absurd hc hne
    · exact .inr (.inr ⟨rfl, hc, i, x, hf, hw, hx⟩)
  · exact absurd rfl hne
  · exact .inl rfl
  · exact .inr (.inl ⟨d, rfl⟩)

/-- Settles O7: the step is the DSEQ's, and the error of its fetch is raised. -/
theorem fetchFaultsAreRecorded : Obligations.FetchFaultsAreRecorded := by
  intro s hrun hsched
  rw [step_eq_dseqStep hrun (nextEvent_eq_dseq hsched)]
  have raises : ∀ {f}, fetch s = .error f → dseqStep (takeEvent s) = .next ((takeEvent s).raiseFault f) :=
    fun hf => dseqStep_of_fetch_error ((fetch_takeEvent s).trans hf)
  exact ⟨fun hlen => raises (fetch_pcRange hlen), fun w e hw he => raises (fetch_illegalOp hw he)⟩

/-- Settles O8: no agent's step is enabled unless the status is live. -/
theorem faultedAndRefusedAreTerminal : Obligations.FaultedAndRefusedAreTerminal := by
  refine ⟨fun s f hs => ⟨by simp [step, hs], not_transition_of_not_live ?_⟩,
    fun s r hs => ⟨by simp [step, hs], not_transition_of_not_live ?_⟩⟩
  all_goals rw [hs]; rfl

/-- Settles O9: the DSEQ is enabled only while Running, so its scheduled step drops the entry. -/
theorem haltedDriverTakesNoStep : Obligations.HaltedDriverTakesNoStep := by
  intro s hhalt hsched
  refine ⟨step_eq_takeEvent hhalt (nextEvent_eq_dseq hsched), ?_⟩
  rintro t ⟨hen, -⟩
  simp [Event.enabled, hhalt] at hen

/-- Settles O35: the source is read before the target and the divisor are used. -/
theorem unwrittenSourceFaults : Obligations.UnwrittenSourceFaults := by
  intro s src hsrc
  refine ⟨fun off => ?_, fun dst d hd => ?_⟩
  · rw [exec, execWrv, withSource_unwritten hsrc]
    rfl
  · rw [exec, execDivu, if_neg hd, withSource_unwritten hsrc]
    rfl

/-- Settles O45: no component named is a draw or a parameter, so each is read off the reset state. -/
theorem resetValues : Obligations.ResetValues := by
  have hvregs : ∀ r, State.reset.readV r = none := fun r => by cases r <;> rfl
  exact ⟨hvregs, rfl, rfl, rfl, rfl, rfl, rfl, rfl, rfl, rfl, rfl, rfl, rfl, rfl, rfl, rfl, rfl, rfl, rfl, rfl, rfl, rfl⟩

/-- Settles O53: the counter and the period are both 0, both codes are the zero code, and nothing is pending. -/
theorem invariantAtReset : Obligations.InvariantAtReset := by
  have hcount : countInv State.reset := BitVec.le_refl (0 : Word)
  have hcodes : codesInv State.reset := ⟨.inl rfl, .inl rfl⟩
  have hconv : convInv State.reset := nofun
  exact ⟨hcount, hcodes, hconv⟩

end Sys2Proof.Machine
end

section
/-! SUPPORT. The decoder on an encoded instruction and on its byte image, an access to an offset where no register stands,
and the step that a schedule names. -/

namespace Sys2Proof

/-! ## The byte image (R64) -/

/-- The decoder reads an encoded instruction back: no field is lost, and only a zero divisor is no instruction
(R84, R85, R86). -/
theorem decode_encode {i : Instr} (h : i.wellFormed = true) : decode (encode i) = .ok i := by
  cases i with
  | divu dst src d =>
    have hd : d ≠ 0#16 := by simpa [Instr.wellFormed] using h
    simp [encode, decode, hd]
  | wr | bis | bic | wrv | rd | poll | jmp | halt => simp [encode, decode, withZeroFields, WordField.isZero]

/-- A word is put together again from its four bytes, least significant byte first (R64). -/
theorem wordOfBytes_extractLsb' (w : InstrWord) :
    wordOfBytes (w.extractLsb' 0 8) (w.extractLsb' 8 8) (w.extractLsb' 16 8) (w.extractLsb' 24 8) = w := by
  unfold wordOfBytes
  ext i hi
  have : i < 8 ∨ 8 ≤ i ∧ i < 16 ∨ 16 ≤ i ∧ i < 24 ∨ 24 ≤ i := by omega
  rcases this with h | h | h | h
  · simp [hi, h, show i < 16 by omega, show i < 24 by omega]
  · simp [hi, h, show ¬ i < 8 by omega, show i < 24 by omega, show i - 8 < 8 by omega]
  · simp [hi, h, show ¬ i < 8 by omega, show ¬ i < 16 by omega, show ¬ i - 8 < 8 by omega, show i - 16 < 8 by omega]
  · simp [hi, show ¬ i < 8 by omega, show ¬ i < 16 by omega, show ¬ i < 24 by omega, show ¬ i - 8 < 8 by omega,
      show ¬ i - 16 < 8 by omega, show i - 24 < 8 by omega,
      show 24 + (i - 24) = i by omega, BitVec.getLsbD_eq_getElem]

/-- Decoding reads the first word of an image and leaves the bytes after it. -/
theorem decodeBytes_bytesOfWord {w : InstrWord} {i : Instr} (h : decode w = .ok i) (rest : List Byte) :
    decodeBytes (bytesOfWord w ++ rest) = .ok (i, rest) := by
  simp [bytesOfWord, decodeBytes, wordOfBytes_extractLsb', h]

theorem encodeBytes_singleton (i : Instr) : encodeBytes [i] = bytesOfWord (encode i) := by
  simp [encodeBytes]

/-- Byte `k` of a word is the word shifted down by 8 k bits and cut to a byte. -/
theorem bytesOfWord_eq_shifts (w : InstrWord) :
    bytesOfWord w = [w.setWidth 8, (w >>> 8).setWidth 8, (w >>> 16).setWidth 8, (w >>> 24).setWidth 8] := rfl

end Sys2Proof

namespace Sys2Proof.Machine

/-! ## Accesses where no register stands (R65) -/

/-- An offset names no register exactly if it is none of the sixteen offsets of R27. -/
theorem Reg.ofOff_eq_none_iff_not_mem (off : RegOff) : Reg.ofOff off = none ↔ off ∉ Reg.all.map Reg.off := by
  simp [Reg.ofOff_eq_none, Reg.mem_all]

theorem regRead_unmapped {off : RegOff} (h : Reg.ofOff off = none) (s : State) :
    regRead off s = .error (.unmapped s.dseq.pc off) := by
  simp [regRead, h]

theorem commit_error (s : State) (e : Refusal) : commit s (.error e) = .next (s.raiseRefuse e) := rfl

/-- A written source is handed to its use (R21). -/
theorem withSource_written {src : VReg} {s : State} {x : Word} (h : s.readV src = some x) (use : Word → Answer) :
    withSource src s use = use x := by
  simp [withSource, h]

/-! ## The step that a schedule names (R70, log 2) -/

/-- The agent that moves next is the schedule's first, or the DSEQ where the schedule is empty. -/
theorem nextEvent_scheduled (s : State) :
    s.sched.head? = some (nextEvent s) ∨ s.sched = [] ∧ nextEvent s = .dseq := by
  cases h : s.sched <;> simp [nextEvent, h]

/-- While the status is live, a step is the step of the scheduled agent (R26). -/
theorem step_eq_agentStep {s : State} (h : s.dseq.status.live = true) : step s = agentStep s := by
  obtain hrun | hhalt := (Status.live_iff _).1 h
  · simp [step, hrun]
  · simp [step, hhalt]

/-- A transition of the scheduled agent is the machine's step (R70, R225). -/
theorem step_of_transition {s t : State} (h : Transition (takeEvent s) (nextEvent s) t) : step s = .next t := by
  obtain ⟨hen, hfire⟩ := h
  have hlive : s.dseq.status.live = true := Event.live_of_enabled hen
  rw [step_eq_agentStep hlive, agentStep, if_pos hen, hfire]

end Sys2Proof.Machine
end

section
/-! PROOFS. The obligations on memory: the byte image, the unmapped offsets, and the step against the interleaving. -/

namespace Sys2Proof.Machine

/-- Settles O5: the image is the four bytes of one word, and the decoder reads that word back. -/
theorem byteImageDecodes : Obligations.ByteImageDecodes := by
  intro i rest hi
  rw [encodeBytes_singleton]
  exact ⟨decodeBytes_bytesOfWord (decode_encode hi) rest, bytesOfWord_eq_shifts (encode i)⟩

/-- Settles O10: a step is the scheduled agent's transition or a skipped entry, and a transition is the step of the schedule
that begins with it. -/
theorem stepsAreTheInterleavedTransitions : Obligations.StepsAreTheInterleavedTransitions := by
  refine ⟨fun s t h => ?_, fun s e t h => ?_⟩
  · obtain hskip | htr := step_cases h
    · exact .inl hskip
    · exact .inr ⟨nextEvent s, nextEvent_scheduled s, htr⟩
  · have hnext : nextEvent (s.setSched (e :: s.sched)) = e := rfl
    have htake : takeEvent (s.setSched (e :: s.sched)) = s := rfl
    exact step_of_transition (s := s.setSched (e :: s.sched)) (by rwa [hnext, htake])

/-- Settles O13: the target's first check fails in each of the six instructions, and its refusal is all that is recorded. -/
theorem unmappedAccessIsRefused : Obligations.UnmappedAccessIsRefused := by
  intro s off hoff i hi
  have hnone : Reg.ofOff off = none := (Reg.ofOff_eq_none_iff_not_mem off).2 hoff
  change exec i s = .next (s.raiseRefuse (.unmapped s.dseq.pc off))
  obtain ⟨x, rfl⟩ | ⟨m, rfl⟩ | ⟨m, rfl⟩ | ⟨d, rfl⟩ | ⟨m, rfl⟩ | ⟨src, x, rfl, hx⟩ := hi
  · rw [exec, execWr, regWrite_unmapped hnone, commit_error]
  · rw [exec, execBis, regModify_unmapped hnone, commit_error]
  · rw [exec, execBic, regModify_unmapped hnone, commit_error]
  · rw [exec, execRd, regRead_unmapped hnone]
  · rw [exec, execPoll, regRead_unmapped hnone]
  · rw [exec, execWrv, withSource_written hx, regWrite_unmapped hnone, commit_error]

end Sys2Proof.Machine
end

section
/-! SUPPORT. A word by its five fields, what a decoded word and its instruction are, and the masks of the opcode table's rows
read field by field. -/

namespace Sys2Proof

/-! ## The fields of a word (R81) -/

theorem opField_and (v w : InstrWord) : opField (v &&& w) = opField v &&& opField w := BitVec.extractLsb'_and
theorem rdField_and (v w : InstrWord) : rdField (v &&& w) = rdField v &&& rdField w := BitVec.extractLsb'_and
theorem rsField_and (v w : InstrWord) : rsField (v &&& w) = rsField v &&& rsField w := BitVec.extractLsb'_and
theorem addrField_and (v w : InstrWord) : addrField (v &&& w) = addrField v &&& addrField w := BitVec.extractLsb'_and
theorem immField_and (v w : InstrWord) : immField (v &&& w) = immField v &&& immField w := BitVec.extractLsb'_and

/-- Two words are equal exactly if their five fields are (R81). -/
theorem word_eq_iff_fields (v w : InstrWord) : v = w ↔ opField v = opField w ∧ rdField v = rdField w ∧
    rsField v = rsField w ∧ addrField v = addrField w ∧ immField v = immField w := by
  refine ⟨by rintro rfl; simp, fun ⟨ho, hd, hs, ha, hm⟩ => ?_⟩
  rw [← assemble_fields v, ho, hd, hs, ha, hm, assemble_fields]

/-- A word matches a row exactly if each of its fields matches the row's (R84). -/
theorem and_assemble_eq_assemble_iff (w : InstrWord) (ko o : BitVec 4) (kd d ks s : BitVec 2) (ka a : RegOff)
    (km m : Word) : w &&& assemble ko kd ks ka km = assemble o d s a m ↔ opField w &&& ko = o ∧ rdField w &&& kd = d ∧
      rsField w &&& ks = s ∧ addrField w &&& ka = a ∧ immField w &&& km = m := by
  simp [word_eq_iff_fields, opField_and, rdField_and, rsField_and, addrField_and, immField_and]

/-! ## What decodes, and to what (R84-R86) -/

/-- An instruction that passes the check of its zero fields is well formed and has the word that was read, if the
instruction checked is and has. -/
theorem wellFormed_and_encode_of_withZeroFields {w : InstrWord} {i j : Instr} {fs : List WordField}
    (h : withZeroFields w i fs = .ok j) (hwf : i.wellFormed = true)
    (hword : (∀ f ∈ fs, f.isZero w = true) → encode i = w) : j.wellFormed = true ∧ encode j = w := by
  obtain ⟨rfl, hzero⟩ := (withZeroFields_eq_ok w i j fs).1 h
  exact ⟨hwf, hword hzero⟩

/-- A decoded instruction is well formed and its word is the one that was read: each field of the word is an operand of the
instruction, or is checked against the instruction's row (R84-R86). -/
theorem wellFormed_and_encode_of_decode {w : InstrWord} {i : Instr} (h : decode w = .ok i) :
    i.wellFormed = true ∧ encode i = w := by
  unfold decode at h
  split_ifs at h with hwr hbis hbic hwrv hrd hdivu haddr himm hpoll hjmp hhalt
  case neg => -- DIVU, the one row with a check of its own
    cases h
    have hzero : addrField w = 0 := not_not.1 haddr
    exact ⟨by simpa [Instr.wellFormed] using himm, by simp [word_eq_iff_fields, encode, hdivu, hzero]⟩
  all_goals
    refine wellFormed_and_encode_of_withZeroFields h rfl fun hzero => ?_
    simp_all [word_eq_iff_fields, encode, WordField.isZero]

/-- The legal words by their fields: the opcode of a row, the fields it marks 0, and a nonzero divisor for DIVU. -/
theorem decode_ok_iff_fields (w : InstrWord) : (∃ i, decode w = .ok i) ↔
    (opField w = 0x1 ∧ rdField w = 0 ∧ rsField w = 0) ∨ (opField w = 0x2 ∧ rdField w = 0 ∧ rsField w = 0) ∨
    (opField w = 0x3 ∧ rdField w = 0 ∧ rsField w = 0) ∨ (opField w = 0x4 ∧ rdField w = 0 ∧ immField w = 0) ∨
    (opField w = 0x5 ∧ rsField w = 0 ∧ immField w = 0) ∨
    ((opField w = 0x6 ∧ addrField w = 0) ∧ immField w ≠ 0) ∨ (opField w = 0x7 ∧ rdField w = 0 ∧ rsField w = 0) ∨
    (opField w = 0x8 ∧ rdField w = 0 ∧ rsField w = 0 ∧ addrField w = 0) ∨
    (opField w = 0xF ∧ rdField w = 0 ∧ rsField w = 0 ∧ addrField w = 0 ∧ immField w = 0) := by
  constructor
  · rintro ⟨i, h⟩
    obtain ⟨hwf, rfl⟩ := wellFormed_and_encode_of_decode h
    cases i <;> simp_all [encode, Instr.wellFormed]
  · rintro (h | h | h | h | h | h | h | h | h) <;> simp_all [decode, withZeroFields_eq_ok, WordField.isZero]

/-! ## The masks of the table's rows (R84)

A mask is all ones or all zeros in each field, so `simp` keeps `BitVec.allOnes` and cancels it. -/

/-- The rows of WR, BIS, BIC and POLL: the opcode, and no driver register. -/
theorem and_regsMask_iff (w : InstrWord) (o : BitVec 4) : w &&& 0xFF000000#32 = assemble o 0 0 0 0 ↔
    opField w = o ∧ rdField w = 0 ∧ rsField w = 0 :=
  (and_assemble_eq_assemble_iff w (.allOnes 4) o (.allOnes 2) 0 (.allOnes 2) 0 0 0 0 0).trans
    (by simp [-BitVec.reduceAllOnes])

theorem and_wrvMask_iff (w : InstrWord) : w &&& 0xFC00FFFF#32 = 0x40000000#32 ↔
    opField w = 0x4 ∧ rdField w = 0 ∧ immField w = 0 :=
  (and_assemble_eq_assemble_iff w (.allOnes 4) 4 (.allOnes 2) 0 0 0 0 0 (.allOnes 16) 0).trans
    (by simp [-BitVec.reduceAllOnes])

theorem and_rdMask_iff (w : InstrWord) : w &&& 0xF300FFFF#32 = 0x50000000#32 ↔
    opField w = 0x5 ∧ rsField w = 0 ∧ immField w = 0 :=
  (and_assemble_eq_assemble_iff w (.allOnes 4) 5 0 0 (.allOnes 2) 0 0 0 (.allOnes 16) 0).trans
    (by simp [-BitVec.reduceAllOnes])

theorem and_divuMask_iff (w : InstrWord) : w &&& 0xF0FF0000#32 = 0x60000000#32 ↔
    opField w = 0x6 ∧ addrField w = 0 :=
  (and_assemble_eq_assemble_iff w (.allOnes 4) 6 0 0 0 0 (.allOnes 8) 0 0 0).trans
    (by simp [-BitVec.reduceAllOnes])

theorem and_immMask_iff (w : InstrWord) : w &&& 0x0000FFFF#32 = 0#32 ↔ immField w = 0 :=
  (and_assemble_eq_assemble_iff w 0 0 0 0 0 0 0 0 (.allOnes 16) 0).trans
    (by simp [-BitVec.reduceAllOnes])

theorem and_jmpMask_iff (w : InstrWord) : w &&& 0xFFFF0000#32 = 0x80000000#32 ↔
    opField w = 0x8 ∧ rdField w = 0 ∧ rsField w = 0 ∧ addrField w = 0 :=
  (and_assemble_eq_assemble_iff w (.allOnes 4) 8 (.allOnes 2) 0 (.allOnes 2) 0 (.allOnes 8) 0 0 0).trans
    (by simp [-BitVec.reduceAllOnes])

theorem and_haltMask_iff (w : InstrWord) : w &&& 0xFFFFFFFF#32 = 0xF0000000#32 ↔
    opField w = 0xF ∧ rdField w = 0 ∧ rsField w = 0 ∧ addrField w = 0 ∧ immField w = 0 :=
  (and_assemble_eq_assemble_iff w (.allOnes 4) 0xF (.allOnes 2) 0 (.allOnes 2) 0 (.allOnes 8) 0 (.allOnes 16) 0).trans
    (by simp [-BitVec.reduceAllOnes])

end Sys2Proof
end

section
/-! PROOFS. The obligations on the encoding: the two round trips, the rows of the opcode table, and the sample words. -/

namespace Sys2Proof

/-- Settles O1: the decoder reads each operand from the field that the encoder put it in. -/
theorem decodeOfEncodeIsTheInstruction : Obligations.DecodeOfEncodeIsTheInstruction :=
  fun _ hwf => decode_encode hwf

/-- Settles O2: every field of a legal word is an operand of its instruction or is checked against its row. -/
theorem legalWordIsItsInstructionsEncoding : Obligations.LegalWordIsItsInstructionsEncoding :=
  fun _ _ h => wellFormed_and_encode_of_decode h

/-- Settles O3: both sides constrain the same fields, row by row. -/
theorem legalWordsAreTheTableRows : Obligations.LegalWordsAreTheTableRows := by
  intro w
  have hwr : w &&& 0xFF000000#32 = 0x10000000#32 ↔ _ := and_regsMask_iff w 0x1
  have hbis : w &&& 0xFF000000#32 = 0x20000000#32 ↔ _ := and_regsMask_iff w 0x2
  have hbic : w &&& 0xFF000000#32 = 0x30000000#32 ↔ _ := and_regsMask_iff w 0x3
  have hpoll : w &&& 0xFF000000#32 = 0x70000000#32 ↔ _ := and_regsMask_iff w 0x7
  rw [decode_ok_iff_fields, hwr, hbis, hbic, hpoll, and_wrvMask_iff, and_rdMask_iff, and_divuMask_iff,
    ne_eq (w &&& _), and_immMask_iff, and_jmpMask_iff, and_haltMask_iff]

/-- Settles O4: the decoder is run on each of the twelve words. -/
theorem sampleWordsDecode : Obligations.SampleWordsDecode := by
  unfold Obligations.SampleWordsDecode
  decide

end Sys2Proof
end

section
/-! SUPPORT. The bus access: what RD leaves, the checks of a write on a read-only register and on reserved bits, which writes
a register's rule admits and the state they leave, and the stored values of that state. -/

namespace Sys2Proof.Machine

/-! ## The value that BIS and BIC write (R102, R103) -/

theorem writes_bis_iff {off : RegOff} {mask x : Word} {r : Reg} {s : State} :
    Writes (.bis off mask) r x s ↔ off = r.off ∧ x = stored r s ||| mask := by
  simp [Writes]

theorem writes_bic_iff {off : RegOff} {mask x : Word} {r : Reg} {s : State} :
    Writes (.bic off mask) r x s ↔ off = r.off ∧ x = stored r s &&& ~~~mask := by
  simp [Writes]

/-! ## Reads (R105, R106) -/

/-- RD of a register: its stored value in the destination, the read's effect, and the next pc. -/
theorem exec_rd_off (dst : VReg) (r : Reg) (s : State) :
    exec (.rd dst r.off) s = .next ((readEffect r s).writeV dst (stored r s)).advance := by
  simp [exec, execRd, regRead, writeDest]

/-- The effect of a read is in IFG0 only. -/
theorem readEffect_eq_setConv (r : Reg) (s : State) :
    readEffect r s = s.setConv { s.conv with ifg0 := (readEffect r s).conv.ifg0 } := by
  cases r <;> rfl

/-! ## The common checks of a write (R107-R109) -/

theorem Reg.mem_writable {r : Reg} : r ∈ Reg.all.filter (!·.readOnly) ↔ r.readOnly = false := by
  simp [Reg.mem_all]

theorem exec_of_writes_readOnly {i : Instr} {r : Reg} {x : Word} {s : State} (hw : Writes i r x s)
    (hr : r.readOnly = true) : exec i s = .next (s.raiseRefuse (.readonlyWrite s.dseq.pc r.off)) := by
  rw [exec_of_writes hw, regWrite_off, if_pos hr, commit_error]

theorem exec_of_writes_not_fits {i : Instr} {r : Reg} {x : Word} {s : State} (hw : Writes i r x s)
    (hr : r.readOnly = false) (hx : ¬ Fits r x) :
    exec i s = .next (s.raiseRefuse (.reservedBits s.dseq.pc r.off x)) := by
  have hx' : x &&& ~~~r.definedMask ≠ 0 := hx
  rw [exec_of_writes hw, regWrite_off, hr, if_neg Bool.false_ne_true, if_pos hx', commit_error]

theorem not_readOnly_of_writeReg_ok {r : Reg} {x : Word} {s t : State} (h : writeReg r x s = .ok t) :
    r.readOnly = false := by
  cases r
  case adcMem0 | adcIfg | tmrR => simp [writeReg] at h
  all_goals rfl

/-- A write instruction after which the machine is still Running has passed the checks, and it leaves what its register's
rule gives (R107, R220). -/
theorem admitted_of_running {i : Instr} {r : Reg} {x : Word} {s t : State} (hw : Writes i r x s)
    (h : exec i s = .next t) (hrun : t.dseq.status = .running) :
    Fits r x ∧ ∃ s', writeReg r x s = .ok s' ∧ t = s'.advance := by
  obtain ⟨e, rfl⟩ | ⟨s', hwr, rfl⟩ := exec_writes_cases hw h
  · simp at hrun
  · refine ⟨?_, s', hwr, rfl⟩
    by_contra hx
    rw [exec_of_writes_not_fits hw (not_readOnly_of_writeReg_ok hwr) hx] at h
    simp [← Host.Outcome.next.inj h] at hrun

/-- Reserved bits are checked before the register's own rule, so no rule refuses for them (R107, R108). -/
theorem writeReg_error_ne_reservedBits {r : Reg} {x : Word} {s : State} {e : Refusal} (h : writeReg r x s = .error e)
    (pc : Nat) (off : RegOff) (y : Word) : e ≠ .reservedBits pc off y := by
  rintro rfl
  cases r <;> simp only [writeReg, writeAdcCtl0, writeAdcCtl1, writeAdcCtl2, writeAdcMctl0, writeTmrCtl, writeTmrCcr0,
    writeTmrCctl1, writeSysCtl, Except.error.injEq, reduceCtorEq] at h
  all_goals split_ifs at h <;> cases h

/-- A write of a value that fits is never refused for reserved bits (R107, R108). -/
theorem status_ne_reservedBits_of_writes_fits {i : Instr} {r : Reg} {x : Word} {s t : State} (hw : Writes i r x s)
    (hx : Fits r x) (h : exec i s = .next t) (hrun : s.dseq.status = .running) (pc : Nat) (off : RegOff) (y : Word) :
    t.dseq.status ≠ .refused (.reservedBits pc off y) := by
  cases hro : r.readOnly with
  | true =>
    rw [exec_of_writes_readOnly hw hro] at h
    simp [← Host.Outcome.next.inj h]
  | false =>
    rw [exec_of_writes_fits hw hro hx] at h
    obtain rfl := Host.Outcome.next.inj h
    cases hwr : writeReg r x s with
    | error e => exact fun hst => writeReg_error_ne_reservedBits hwr pc off y (Status.refused.inj hst)
    | ok s' => simp [settle, (writeReg_frame hwr).1, hrun]

/-- The four configuration registers of the conversion unit are busy while a conversion is pending (R141). -/
theorem writeReg_of_pending {r : Reg} (x : Word) {s : State}
    (hr : r = .adcCtl0 ∨ r = .adcCtl1 ∨ r = .adcCtl2 ∨ r = .adcMctl0) (hp : s.conv.pending = true) :
    writeReg r x s = .error (.adcBusy s.dseq.pc r.off) := by
  obtain rfl | rfl | rfl | rfl := hr
  · simp [writeReg, writeAdcCtl0, hp]
  · simp [writeReg, writeAdcCtl1, hp]
  · simp [writeReg, writeAdcCtl2, hp]
  · simp [writeReg, writeAdcMctl0, hp]

/-! ## Which writes a register's rule admits, and the state they leave -/

/-- The register's own rule admits the value (R121-R124, R140-R146, R170-R176, R234). -/
def Admits (s : State) (x : Word) : Reg → Prop
  | .gpioOut | .gpioDir | .gpioSel0 | .gpioSel1 | .tmrCcr1 => True
  | .adcMem0 | .adcIfg | .tmrR => False
  | .adcCtl0 => s.conv.pending = false ∧
      (s.conv.enc = true → x.getLsbD 4 = s.conv.on ∧ x.extractLsb' 8 4 = s.conv.sht) ∧
      (x.getLsbD 1 = true → x.getLsbD 0 = true)
  | .adcCtl1 => s.conv.pending = false ∧ (s.conv.enc = true → x.getLsbD 0 = s.conv.shp)
  | .adcCtl2 => s.conv.pending = false ∧ (s.conv.enc = true → x.extractLsb' 4 2 = s.conv.res) ∧
      x.extractLsb' 4 2 ≠ Config.resReserved
  | .adcMctl0 => s.conv.pending = false ∧ (s.conv.enc = true → x.extractLsb' 0 4 = s.conv.inch)
  | .tmrCtl => x.extractLsb' 4 2 = Config.mcStop ∨ x.extractLsb' 4 2 = Config.mcUp
  | .tmrCcr0 => s.pulse.count ≤ x
  | .tmrCctl1 => x.extractLsb' 5 3 = Config.outmodLow ∨ x.extractLsb' 5 3 = Config.outmodResetSet
  | .sysCtl => (s.sys.wdtHold = true → x.getLsbD 0 = true) ∧ (s.sys.pinLock = false → x.getLsbD 1 = false)

/-- ENC, ON and SHT as a value for ADC_CTL0 gives them, before any trigger (R140). -/
def ConvUnit.withCtl0 (c : ConvUnit) (x : Word) : ConvUnit :=
  { c with enc := x.getLsbD 0, on := x.getLsbD 4, sht := x.extractLsb' 8 4 }

/-- The pins of a state replaced by a selection write, conv_ok settled (R125). -/
def State.withSelection (s : State) (p : PinUnit) : State :=
  (s.setPin p).setConv { s.conv with
    ok := s.conv.ok && !(s.conv.pending && pinBAnalog s && !pinBAnalog (s.setPin p)) }

/-- The state that an admitted write leaves, pc aside. -/
def State.written (s : State) (x : Word) : Reg → State
  | .gpioOut => s.setPin { s.pin with out := x.extractLsb' 0 3 }
  | .gpioDir => s.setPin { s.pin with dir := x.extractLsb' 0 3 }
  | .gpioSel0 => s.withSelection { s.pin with sel0 := x.extractLsb' 0 3 }
  | .gpioSel1 => s.withSelection { s.pin with sel1 := x.extractLsb' 0 3 }
  | .adcCtl0 => s.setConv { s.conv.withCtl0 x with
      pending := x.getLsbD 1
      ok := if x.getLsbD 1 then adcOk (s.setConv (s.conv.withCtl0 x)) else s.conv.ok }
  | .adcCtl1 => s.setConv { s.conv with shp := x.getLsbD 0 }
  | .adcCtl2 => s.setConv { s.conv with res := x.extractLsb' 4 2 }
  | .adcMctl0 => s.setConv { s.conv with inch := x.extractLsb' 0 4 }
  | .adcMem0 | .adcIfg | .tmrR => s
  | .tmrCtl => s.setPulse { s.pulse with
      tssel := x.extractLsb' 8 2, mc := x.extractLsb' 4 2
      count := if x.getLsbD 2 then 0 else s.pulse.count
      cmpAct := if x.getLsbD 2 then s.pulse.ccr1 else s.pulse.cmpAct }
  | .tmrCcr0 => s.setPulse { s.pulse with period := x }
  | .tmrCctl1 => s.setPulse { s.pulse with outmod := x.extractLsb' 5 3 }
  | .tmrCcr1 => s.setPulse { s.pulse with
      ccr1 := x, cmpAct := if s.pulse.mc = Config.mcStop then x else s.pulse.cmpAct }
  | .sysCtl => s.setSys { wdtHold := x.getLsbD 0, pinLock := x.getLsbD 1 }

/-- A register's own rule, said once: when it admits a value, and what it leaves then. -/
theorem writeReg_eq_ok {r : Reg} {x : Word} {s t : State} :
    writeReg r x s = .ok t ↔ Admits s x r ∧ t = s.written x r := by
  rw [@eq_comm _ t]
  cases r <;> simp only [writeReg, Admits, State.written, true_and, false_and, and_assoc, reduceCtorEq,
    Except.ok.injEq]
  case gpioOut | gpioDir => rfl
  case gpioSel0 => rw [writeGpioSel0, settlePinWrite_eq]; rfl
  case gpioSel1 => rw [writeGpioSel1, settlePinWrite_eq]; rfl
  case adcCtl0 =>
    unfold writeAdcCtl0
    split_ifs <;> simp_all [ConvUnit.withCtl0, State.startConversion, State.setConv]
    all_goals tauto -- the refusals of a locked configuration
  case adcCtl1 => unfold writeAdcCtl1; split_ifs <;> simp_all
  case adcCtl2 => unfold writeAdcCtl2; split_ifs <;> simp_all
  case adcMctl0 => unfold writeAdcMctl0; split_ifs <;> simp_all
  case tmrCtl => unfold writeTmrCtl; split_ifs <;> simp_all [PulseUnit.boundary, or_iff_not_imp_left]
  case tmrCcr0 => unfold writeTmrCcr0; split_ifs <;> simp_all
  case tmrCctl1 => unfold writeTmrCctl1; split_ifs <;> simp_all [or_iff_not_imp_left]
  case tmrCcr1 => unfold writeTmrCcr1; split_ifs <;> rfl
  case sysCtl => unfold writeSysCtl; split_ifs <;> simp_all

theorem written_pending (s : State) (x : Word) (r : Reg) :
    (s.written x r).conv.pending = if r = .adcCtl0 then x.getLsbD 1 else s.conv.pending := by cases r <;> rfl

theorem admits_advance (s : State) (x : Word) (r : Reg) : Admits s.advance x r ↔ Admits s x r := by cases r <;> rfl

theorem written_advance (s : State) (x : Word) (r : Reg) : s.advance.written x r = (s.written x r).advance := by
  cases r <;> rfl

/-- A value that was admitted is admitted again, unless it has started a conversion. -/
theorem Admits.written {s : State} {x : Word} {r : Reg} (h : Admits s x r) (hsc : r = .adcCtl0 → x.getLsbD 1 = false) :
    Admits (s.written x r) x r := by
  cases r
  case adcCtl0 =>
    obtain ⟨-, -, hstart⟩ := h
    exact ⟨hsc rfl, fun _ => ⟨rfl, rfl⟩, hstart⟩
  case adcCtl1 => exact ⟨h.1, fun _ => rfl⟩
  case adcCtl2 =>
    obtain ⟨hp, -, hres⟩ := h
    exact ⟨hp, fun _ => rfl, hres⟩
  case adcMctl0 => exact ⟨h.1, fun _ => rfl⟩
  case sysCtl => exact ⟨id, id⟩
  all_goals exact h

/-- A selection made again finds the same PinB_analog before and after, so it clears no conv_ok (R125). -/
theorem withSelection_withSelection (s : State) (p : PinUnit) :
    (s.withSelection p).withSelection p = s.withSelection p := by
  have hsame : pinBAnalog ((s.withSelection p).setPin p) = pinBAnalog (s.withSelection p) := rfl
  rw [State.withSelection, hsame, Bool.and_assoc, Bool.and_not_self, Bool.and_false, Bool.not_false, Bool.and_true]
  rfl

/-- Writing the same value again changes nothing, unless it starts a conversion. -/
theorem written_written {s : State} {x : Word} {r : Reg} (hsc : r = .adcCtl0 → x.getLsbD 1 = false) :
    (s.written x r).written x r = s.written x r := by
  cases r
  case gpioSel0 | gpioSel1 => exact withSelection_withSelection s _
  case adcCtl0 => simp only [State.written, hsc]; rfl
  case tmrCtl => cases hx : x.getLsbD 2 <;> simp only [State.written, hx] <;> rfl
  case tmrCcr1 => simp only [State.written, State.setPulse_pulse]; split_ifs <;> rfl
  all_goals rfl

/-! ## Fields of a written value in their place -/

theorem setWidth_extractLsb'_shiftLeft (x : Word) (k n : Nat) :
    (x.extractLsb' k n).setWidth 16 <<< k = x &&& (BitVec.allOnes n).setWidth 16 <<< k := by
  ext i hi
  by_cases hk : i < k
  · simp [hk]
  · simp [hk, hi, show k + (i - k) = i by omega, Bool.and_comm, BitVec.getLsbD_eq_getElem]

theorem setWidth_ofBool_getLsbD_shiftLeft (x : Word) (k : Nat) :
    (BitVec.ofBool (x.getLsbD k)).setWidth 16 <<< k = x &&& 1#16 <<< k := by
  have hbit : BitVec.ofBool (x.getLsbD k) = x.extractLsb' k 1 := by
    ext i hi
    simp [show i = 0 by omega]
  rw [hbit, setWidth_extractLsb'_shiftLeft]
  rfl

/-! ## The stored value (R106, R110) -/

@[simp] theorem stored_advance (r : Reg) (s : State) : stored r s.advance = stored r s := by cases r <;> rfl

@[simp] theorem stored_raiseRefuse (r : Reg) (s : State) (e : Refusal) : stored r (s.raiseRefuse e) = stored r s := by
  cases r <;> rfl

/-- SC reads as conv_pending (R106, R140). -/
theorem stored_adcCtl0_getLsbD_one (s : State) : (stored .adcCtl0 s).getLsbD 1 = s.conv.pending := by
  simp [stored]

/-- TCLR reads 0 (R106, R110). -/
theorem stored_tmrCtl_and (s : State) : stored .tmrCtl s &&& 0xFFFB#16 = stored .tmrCtl s := by
  simp only [stored]
  generalize s.pulse.tssel = v, s.pulse.mc = w
  revert v w; decide

theorem stored_tmrCtl_getLsbD_two (s : State) : (stored .tmrCtl s).getLsbD 2 = false := by
  rw [← stored_tmrCtl_and, BitVec.getLsbD_and]
  exact Bool.and_false _

/-- A register reads 0 in every reserved bit (R106, R108). -/
theorem stored_fits (r : Reg) (s : State) : Fits r (stored r s) := by
  cases r <;> simp only [Fits, Reg.definedMask, stored]
  case gpioOut => generalize s.pin.out = v; revert v; decide
  case gpioDir => generalize s.pin.dir = v; revert v; decide
  case gpioSel0 => generalize s.pin.sel0 = v; revert v; decide
  case gpioSel1 => generalize s.pin.sel1 = v; revert v; decide
  case adcCtl0 =>
    generalize s.conv.sht = v, s.conv.on = b, s.conv.pending = c, s.conv.enc = d
    revert v b c d; decide
  case adcCtl1 => cases s.conv.shp <;> rfl
  case adcCtl2 => generalize s.conv.res = v; revert v; decide
  case adcMctl0 => generalize s.conv.inch = v; revert v; decide
  case adcIfg => cases s.conv.ifg0 <;> rfl
  case tmrCtl =>
    generalize s.pulse.tssel = v, s.pulse.mc = w
    revert v w; decide
  case tmrCctl1 => generalize s.pulse.outmod = v; revert v; decide
  case sysCtl => cases s.sys.pinLock <;> cases s.sys.wdtHold <;> rfl
  case adcMem0 | tmrR | tmrCcr0 | tmrCcr1 => exact BitVec.and_zero

theorem Fits.and_definedMask {r : Reg} {x : Word} (h : Fits r x) : x &&& r.definedMask = x := by
  have hx : x &&& ~~~r.definedMask = 0 := h
  calc x &&& r.definedMask = x &&& r.definedMask ||| x &&& ~~~r.definedMask := by rw [hx]; exact BitVec.or_zero.symm
    _ = x &&& (r.definedMask ||| ~~~r.definedMask) := BitVec.and_or_distrib_left.symm
    _ = x := by rw [BitVec.or_not_self]; exact BitVec.and_allOnes

theorem Fits.and {r : Reg} {x : Word} (h : Fits r x) (y : Word) : Fits r (x &&& y) := by
  have hx : x &&& ~~~r.definedMask = 0 := h
  rw [Fits, BitVec.and_assoc, BitVec.and_comm y, ← BitVec.and_assoc, hx]
  exact BitVec.zero_and

/-- A written register keeps the defined bits of the value, but TCLR is an action and is not kept (R140, R170). -/
theorem stored_written {r : Reg} (hr : r.readOnly = false) (x : Word) (s : State) :
    stored r (s.written x r) = (if r = .tmrCtl then x &&& 0xFFFB#16 else x) &&& r.definedMask := by
  have field := setWidth_extractLsb'_shiftLeft x
  have lowField := fun n => field 0 n
  have bit := setWidth_ofBool_getLsbD_shiftLeft x
  have lowBit := bit 0
  simp only [BitVec.shiftLeft_zero] at lowField lowBit
  cases r
  case gpioOut | gpioDir | gpioSel0 | gpioSel1 => exact lowField 3
  case adcCtl0 =>
    simp only [stored, State.written, ConvUnit.withCtl0, State.setConv_conv, field, bit, lowBit,
      ← BitVec.and_or_distrib_left]
    rfl
  case adcCtl1 => exact lowBit
  case adcCtl2 => exact field 4 2
  case adcMctl0 => exact lowField 4
  case tmrCtl =>
    simp only [stored, State.written, State.setPulse_pulse, field, ← BitVec.and_or_distrib_left, if_true,
      BitVec.and_assoc]
    rfl
  case tmrCcr0 | tmrCcr1 => exact BitVec.and_allOnes.symm
  case tmrCctl1 => exact field 5 3
  case sysCtl =>
    simp only [stored, State.written, State.setSys_sys, bit, lowBit, ← BitVec.and_or_distrib_left]
    rfl
  all_goals cases hr

theorem stored_written_of_fits {r : Reg} {x : Word} (hr : r.readOnly = false) (hx : Fits r x) (s : State) :
    stored r (s.written x r) = if r = .tmrCtl then x &&& 0xFFFB#16 else x := by
  rw [stored_written hr]
  split_ifs
  · exact (hx.and _).and_definedMask
  · exact hx.and_definedMask

/-- A written register is the only one whose stored value the write changes, but for the counter that TCLR clears
(R107, R172). -/
theorem stored_written_other {q r : Reg} (hq : q ≠ r) (x : Word) (s : State) :
    stored q (s.written x r) = if q = .tmrR ∧ r = .tmrCtl ∧ x.getLsbD 2 = true then 0 else stored q s := by
  by_cases hclear : q = .tmrR ∧ r = .tmrCtl
  · obtain ⟨rfl, rfl⟩ := hclear
    simp [stored, State.written]
  · rw [if_neg (fun h => hclear ⟨h.1, h.2.1⟩)]
    cases r <;> cases q <;> simp only [ne_eq, not_true_eq_false, and_self, reduceCtorEq] at hq hclear
    all_goals rfl

/-- BIS of the value that BIS has left writes the same value again: TCLR reads 0 and is set by the mask, if at all
(R102, R110). -/
theorem stored_written_or {r : Reg} {mask : Word} {s : State} (hr : r.readOnly = false)
    (hx : Fits r (stored r s ||| mask)) :
    stored r (s.written (stored r s ||| mask) r) ||| mask = stored r s ||| mask := by
  rw [stored_written_of_fits hr hx]
  split_ifs with htmr
  · subst htmr
    have habsorb : mask &&& 0xFFFB#16 ||| mask = mask := by ext; simp +contextual
    rw [BitVec.and_or_distrib_right, stored_tmrCtl_and, BitVec.or_assoc, habsorb]
  · rw [BitVec.or_assoc, BitVec.or_self]

end Sys2Proof.Machine
end

section
/-! PROOFS. The obligations on the bus access: the read table, the common checks of a write, and read-back. -/

namespace Sys2Proof.Machine

/-- Settles O11: the table lists each register with its stored value and the IFG0 that its read leaves; no register stands
at any other offset. -/
theorem readTable : Obligations.ReadTable := by
  refine ⟨fun s dst p hp => ?_, fun s dst off hoff => ?_⟩
  · obtain ⟨r, -, rfl⟩ : ∃ r ∈ Reg.all, (r.off, stored r s, (readEffect r s).conv.ifg0) = p := List.mem_map.1 hp
    rw [exec_rd_off, readEffect_eq_setConv]
    rfl
  · exact unmappedAccessIsRefused s off hoff _ (.inr (.inr (.inr (.inl ⟨dst, rfl⟩))))

/-- Settles O14: the check for read-only registers comes before the value is looked at. -/
theorem readOnlyRegistersRefuseWrites : Obligations.ReadOnlyRegistersRefuseWrites := by
  intro s i r x hr hw
  have hro : r.readOnly = true := by obtain rfl | rfl | rfl := hr <;> rfl
  exact exec_of_writes_readOnly hw hro

/-- Settles O15: the table lists the writable registers with their masks. -/
theorem reservedBitsAreRefused : Obligations.ReservedBitsAreRefused := by
  intro s i x p hp hw hx
  obtain ⟨r, hr, rfl⟩ : ∃ r ∈ Reg.all.filter (!·.readOnly), (r, r.definedMask) = p := List.mem_map.1 hp
  exact exec_of_writes_not_fits hw (Reg.mem_writable.1 hr) hx

/-- Settles O25: the reserved bits are checked first, then the register's own rule finds the unit busy. -/
theorem pendingConversionRefusesConfiguration : Obligations.PendingConversionRefusesConfiguration := by
  intro s i r x hr hp hw
  have hro : r.readOnly = false := by obtain rfl | rfl | rfl | rfl := hr <;> rfl
  split_ifs with hx
  · rw [exec_of_writes_fits hw hro hx, writeReg_of_pending x hr hp]
    rfl
  · exact exec_of_writes_not_fits hw hro hx

/-- Settles O16: what is admitted fits the mask, and the register keeps every bit of the mask but TCLR. -/
theorem admittedWriteIsReadBack : Obligations.AdmittedWriteIsReadBack := by
  intro s t i r x hw h _ hrun
  obtain ⟨hfits, s', hwr, rfl⟩ := admitted_of_running hw h hrun
  have hro := not_readOnly_of_writeReg_ok hwr
  obtain ⟨-, rfl⟩ := writeReg_eq_ok.1 hwr
  rw [stored_advance, stored_written_of_fits hro hfits]

/-- Settles O17: pc tells an admitted write from a refused one, which changes no stored value. -/
theorem writeLeavesOtherRegisters : Obligations.WriteLeavesOtherRegisters := by
  intro s t i r q x hw h hq
  obtain ⟨e, rfl⟩ | ⟨s', hwr, rfl⟩ := exec_writes_cases hw h
  · simp
  · have hpc : s'.advance.dseq.pc ≠ s.dseq.pc := by simp [(writeReg_frame hwr).1]
    obtain ⟨-, rfl⟩ := writeReg_eq_ok.1 hwr
    simp only [stored_advance, stored_written_other hq, hpc, ne_eq, not_false_eq_true, and_true]

/-- Settles O19: the value BIC writes has no bit that the register does not read, so TCLR is clear, SC needs a pending
conversion, and no reserved bit is set. -/
theorem bicHasNoActionAndNoReservedBits : Obligations.BicHasNoActionAndNoReservedBits := by
  intro s t r mask h
  have hw : Writes (.bic r.off mask) r (stored r s &&& ~~~mask) s := writes_bic_iff.2 ⟨rfl, rfl⟩
  refine ⟨?_, ?_, fun hrun => ?_⟩
  · obtain hc | ⟨-, x, hx, hclear⟩ := exec_count h
    · exact hc
    · obtain ⟨-, rfl⟩ := writes_bic_iff.1 hx
      rw [BitVec.getLsbD_and, stored_tmrCtl_getLsbD_two, Bool.false_and] at hclear
      cases hclear
  · obtain ⟨e, rfl⟩ | ⟨s', hwr, rfl⟩ := exec_writes_cases hw h
    · rfl
    · obtain ⟨hadm, rfl⟩ := writeReg_eq_ok.1 hwr
      rw [State.advance_conv, written_pending]
      split_ifs with hr
      · subst hr
        rw [BitVec.getLsbD_and, stored_adcCtl0_getLsbD_one, hadm.1, Bool.false_and]
      · rfl
  · exact status_ne_reservedBits_of_writes_fits hw ((stored_fits r s).and _) h hrun

/-- Settles O20: the second BIS writes the same value, which is admitted again and leaves the same state. -/
theorem bisTwiceIsBisOnce : Obligations.BisTwiceIsBisOnce := by
  intro s t r mask hstart h _ hrun
  have hw : Writes (.bis r.off mask) r (stored r s ||| mask) s := writes_bis_iff.2 ⟨rfl, rfl⟩
  obtain ⟨hfits, s', hwr, rfl⟩ := admitted_of_running hw h hrun
  have hro := not_readOnly_of_writeReg_ok hwr
  obtain ⟨hadm, rfl⟩ := writeReg_eq_ok.1 hwr
  have hsc : r = .adcCtl0 → (stored r s ||| mask).getLsbD 1 = false := by
    rintro rfl
    rw [BitVec.getLsbD_or, stored_adcCtl0_getLsbD_one, hadm.1, hstart rfl, Bool.or_false]
  have hw' : Writes (.bis r.off mask) r (stored r s ||| mask) (s.written (stored r s ||| mask) r).advance :=
    writes_bis_iff.2 ⟨rfl, by rw [stored_advance, stored_written_or hro hfits]⟩
  have hwr' := writeReg_eq_ok.2 ⟨(admits_advance _ _ _).2 (hadm.written hsc), rfl⟩
  rw [exec_of_writes_fits hw' hro hfits, hwr', written_advance, written_written hsc]
  rfl

end Sys2Proof.Machine
end

section
/-! SUPPORT. The pin unit: its registers and their writes (R120-R125), the two-stage function select and PinB_analog
(R126, R127), and the level of a pin (R128, R129). -/

namespace Sys2Proof.Machine

/-! ## Writes of the four pin registers (R121-R125) -/

theorem Reg.unit_eq_pin_iff {r : Reg} :
    r.unit = .pin ↔ r = .gpioOut ∨ r = .gpioDir ∨ r = .gpioSel0 ∨ r = .gpioSel1 := by
  cases r <;> simp [Reg.unit]

/-- A write that the common checks and the register's own rule admit (R24, R107). -/
theorem exec_of_writes_admits {i : Instr} {r : Reg} {x : Word} {s : State} (hw : Writes i r x s) (hx : Fits r x)
    (hadm : Admits s x r) : exec i s = .next (s.written x r).advance := by
  have hwr : writeReg r x s = .ok (s.written x r) := writeReg_eq_ok.2 ⟨hadm, rfl⟩
  rw [exec_of_writes_fits hw (not_readOnly_of_writeReg_ok hwr) hx, hwr]
  rfl

/-- The rules of the pin registers refuse no value (R121-R124). -/
theorem exec_of_writes_pin {i : Instr} {r : Reg} {x : Word} {s : State} (hr : r.unit = .pin) (hw : Writes i r x s)
    (hx : Fits r x) : exec i s = .next (s.written x r).advance := by
  have hadm : Admits s x r := by obtain rfl | rfl | rfl | rfl := Reg.unit_eq_pin_iff.1 hr <;> trivial
  exact exec_of_writes_admits hw hx hadm

theorem Fits.or {r : Reg} {x y : Word} (hx : Fits r x) (hy : Fits r y) : Fits r (x ||| y) := by
  rw [Fits] at hx hy ⊢
  rw [BitVec.and_or_distrib_right, hx, hy]
  rfl

/-- The four write instructions on a pin register: BIC fits whatever its mask, the others if their value does
(R101-R104). -/
theorem exec_pin_writeForms {r : Reg} {x : Word} (hr : r.unit = .pin) (hx : Fits r x) (s : State) (src : VReg) :
    exec (.wr r.off x) s = .next (s.written x r).advance ∧
    (s.readV src = some x → exec (.wrv r.off src) s = .next (s.written x r).advance) ∧
    exec (.bis r.off x) s = .next (s.written (stored r s ||| x) r).advance ∧
    ∀ mask, exec (.bic r.off mask) s = .next (s.written (stored r s &&& ~~~mask) r).advance :=
  ⟨exec_of_writes_pin hr (.inl rfl) hx,
    fun hv => exec_of_writes_pin hr (.inr (.inl ⟨src, rfl, hv⟩)) hx,
    exec_of_writes_pin hr (writes_bis_iff.2 ⟨rfl, rfl⟩) ((stored_fits r s).or hx),
    fun _ => exec_of_writes_pin hr (writes_bic_iff.2 ⟨rfl, rfl⟩) ((stored_fits r s).and _)⟩

/-- The three bits a pin register takes (R28, R121-R124). -/
theorem setWidth_three_eq_extractLsb' (x : Word) : x.setWidth 3 = x.extractLsb' 0 3 :=
  BitVec.setWidth_eq_extractLsb' (by decide)

theorem written_gpioOut_advance (s : State) (x : Word) : (s.written x .gpioOut).advance = { s with
    dseq := { s.dseq with pc := s.dseq.pc + 1 }, pin := { s.pin with out := x.setWidth 3 } } := by
  rw [setWidth_three_eq_extractLsb']
  rfl

theorem written_gpioDir_advance (s : State) (x : Word) : (s.written x .gpioDir).advance = { s with
    dseq := { s.dseq with pc := s.dseq.pc + 1 }, pin := { s.pin with dir := x.setWidth 3 } } := by
  rw [setWidth_three_eq_extractLsb']
  rfl

/-- The three bits that BIS writes (R102). -/
theorem setWidth_setWidth_or (v : BitVec 3) (x : Word) : (v.setWidth 16 ||| x).setWidth 3 = v ||| x.setWidth 3 := by
  simp [BitVec.setWidth_or]

/-- The three bits that BIC writes (R103). -/
theorem setWidth_setWidth_and_not (v : BitVec 3) (x : Word) :
    (v.setWidth 16 &&& ~~~x).setWidth 3 = v &&& ~~~(x.setWidth 3) := by
  simp [BitVec.setWidth_and, BitVec.setWidth_not]

/-! ## Function select (R126, R127) -/

/-- The function-select code is its two stages, SEL1 first. -/
theorem fsel_eq_iff (u : PinUnit) (p : Pin) (b1 b0 : Bool) :
    fsel u p = BitVec.ofBool b1 ++ BitVec.ofBool b0 ↔ u.sel1.getLsbD p.bit = b1 ∧ u.sel0.getLsbD p.bit = b0 := by
  rw [fsel]
  generalize u.sel1.getLsbD p.bit = c1, u.sel0.getLsbD p.bit = c0
  revert b1 b0 c1 c0; decide

theorem fsel_eq_none_iff (u : PinUnit) (p : Pin) :
    fsel u p = 0b00 ↔ u.sel1.getLsbD p.bit = false ∧ u.sel0.getLsbD p.bit = false := fsel_eq_iff u p false false

theorem fsel_ne_none_iff (u : PinUnit) (p : Pin) :
    fsel u p ≠ 0b00 ↔ u.sel1.getLsbD p.bit = true ∨ u.sel0.getLsbD p.bit = true := by
  rw [Ne, fsel_eq_none_iff, not_and_or, Bool.not_eq_false, Bool.not_eq_false]

theorem fsel_eq_both_iff (u : PinUnit) (p : Pin) :
    fsel u p = 0b11 ↔ u.sel1.getLsbD p.bit = true ∧ u.sel0.getLsbD p.bit = true := fsel_eq_iff u p true true

/-- With one stage of two a pin has neither its general-purpose nor its two-stage function (R126). -/
theorem fsel_ne_of_partial {u : PinUnit} {p : Pin} (h : u.sel1.getLsbD p.bit ≠ u.sel0.getLsbD p.bit) :
    fsel u p ≠ 0b00 ∧ fsel u p ≠ 0b11 := by
  rw [Ne, Ne, fsel_eq_none_iff, fsel_eq_both_iff]
  exact ⟨fun ⟨h1, h0⟩ => h (h1.trans h0.symm), fun ⟨h1, h0⟩ => h (h1.trans h0.symm)⟩

/-- The stages of Pin C that select the timer output (R6, R126). -/
theorem fsel_eq_pincFselCode_iff (u : PinUnit) (p : Pin) (c : PincFsel) : fsel u p = pincFselCode c ↔
    c = .sel0Only ∧ u.sel1.getLsbD p.bit = false ∧ u.sel0.getLsbD p.bit = true ∨
    c = .sel1Only ∧ u.sel1.getLsbD p.bit = true ∧ u.sel0.getLsbD p.bit = false ∨
    c = .both ∧ u.sel1.getLsbD p.bit = true ∧ u.sel0.getLsbD p.bit = true := by
  cases c with
  | sel0Only => simp [show fsel u p = pincFselCode .sel0Only ↔ _ from fsel_eq_iff u p false true]
  | sel1Only => simp [show fsel u p = pincFselCode .sel1Only ↔ _ from fsel_eq_iff u p true false]
  | both => simp [show fsel u p = pincFselCode .both ↔ _ from fsel_eq_iff u p true true]

theorem pinBAnalog_iff (s : State) : pinBAnalog s = true ↔
    s.pin.sel1.getLsbD 1 = true ∧ s.pin.sel0.getLsbD 1 = true ∧ s.sys.pinLock = false := by
  rw [pinBAnalog, Bool.and_eq_true, beq_iff_eq, fsel_eq_both_iff, Bool.not_eq_true', and_assoc]
  rfl

theorem pinBAnalog_eq_and (s : State) :
    pinBAnalog s = (!s.sys.pinLock && (s.pin.sel1.getLsbD 1 && s.pin.sel0.getLsbD 1)) := by
  rw [Bool.eq_iff_iff, pinBAnalog_iff, ← and_assoc, and_comm]
  simp only [Bool.and_eq_true, Bool.not_eq_true']

/-- A selection write clears conv_ok exactly if a conversion is pending, Pin B is analog before it, and the write leaves
Pin B's stages not both set; `c` says whether it leaves them so (R125, R127). -/
theorem withSelection_eq {s : State} {p : PinUnit} {c : Bool}
    (h : s.pin.sel1.getLsbD 1 = true → s.pin.sel0.getLsbD 1 = true → (p.sel1.getLsbD 1 && p.sel0.getLsbD 1) = c) :
    s.withSelection p = (s.setPin p).setConv { s.conv with ok := s.conv.ok && !(s.conv.pending && !s.sys.pinLock &&
      s.pin.sel1.getLsbD 1 && s.pin.sel0.getLsbD 1 && !c) } := by
  simp only [State.withSelection, pinBAnalog_eq_and, State.setPin_pin, State.setPin_sys, Bool.and_assoc]
  cases hl : s.sys.pinLock
  · cases h1 : s.pin.sel1.getLsbD 1
    · simp
    · cases h0 : s.pin.sel0.getLsbD 1
      · simp
      · rw [h h1 h0]; simp
  · simp

theorem written_gpioSel0_advance (s : State) (x : Word) : (s.written x .gpioSel0).advance = { s with
    dseq := { s.dseq with pc := s.dseq.pc + 1 }
    pin := { s.pin with sel0 := x.setWidth 3 }
    conv := { s.conv with ok := s.conv.ok && !(s.conv.pending && !s.sys.pinLock && s.pin.sel1.getLsbD 1 &&
      s.pin.sel0.getLsbD 1 && !x.getLsbD 1) } } := by
  rw [State.written, withSelection_eq (c := x.getLsbD 1) (by simp +contextual), setWidth_three_eq_extractLsb']
  rfl

theorem written_gpioSel1_advance (s : State) (x : Word) : (s.written x .gpioSel1).advance = { s with
    dseq := { s.dseq with pc := s.dseq.pc + 1 }
    pin := { s.pin with sel1 := x.setWidth 3 }
    conv := { s.conv with ok := s.conv.ok && !(s.conv.pending && !s.sys.pinLock && s.pin.sel1.getLsbD 1 &&
      s.pin.sel0.getLsbD 1 && !x.getLsbD 1) } } := by
  rw [State.written, withSelection_eq (c := x.getLsbD 1) (by simp +contextual), setWidth_three_eq_extractLsb']
  rfl

/-! ## The level of a pin (R128, R129) -/

theorem wire_locked {s : State} (h : s.sys.pinLock = true) (p : Pin) : wire s p = .undef := by
  rw [wire.eq_def, if_pos h]

theorem wire_unselected {s : State} {p : Pin} (h : s.sys.pinLock = false) (hsel : fsel s.pin p = 0b00) :
    wire s p = gpioWire s.pin p := by
  rw [wire.eq_def, h, if_neg Bool.false_ne_true, if_pos hsel]

theorem wire_a_selected {s : State} (hsel : fsel s.pin .a ≠ 0b00) : wire s .a = .undef := by
  rw [wire, if_neg hsel, ite_self]

theorem wire_b_selected {s : State} (h : s.sys.pinLock = false) (hsel : fsel s.pin .b ≠ 0b00) :
    wire s .b = if fsel s.pin .b = 0b11 then .undriven else .undef := by
  rw [wire, h, if_neg Bool.false_ne_true, if_neg hsel]

theorem wire_c_selected {s : State} (h : s.sys.pinLock = false) (hsel : fsel s.pin .c ≠ 0b00) :
    wire s .c = if fsel s.pin .c = pincFselCode s.params.pincFsel then
      (if s.pin.dir.getLsbD 2 = true then timerOut s.pulse else .undriven) else .undef := by
  rw [wire, h, if_neg Bool.false_ne_true, if_neg hsel]
  rfl

theorem Wire.allowsLevel_iff (w : Wire) (level : Bool) :
    w.allowsLevel level = true ↔ (w = .lo → level = false) ∧ (w = .hi → level = true) := by
  cases w <;> simp [Wire.allowsLevel]

end Sys2Proof.Machine
end

section
/-! PROOFS. The obligations on the pin unit: the writes of its registers, its frame, PinB_analog and ADC_OK, and the level
of each pin. -/

namespace Sys2Proof.Machine

/-- Settles O23: no selection is refused, and conv_ok is lost where Pin B stops being analog. -/
theorem gpioSelectWrites : Obligations.GpioSelectWrites := by
  intro s i x hx
  refine ⟨fun hw => ?_, fun hw => ?_⟩
  · rw [exec_of_writes_pin rfl hw hx, written_gpioSel0_advance]
  · rw [exec_of_writes_pin rfl hw hx, written_gpioSel1_advance]

/-- Settles O51: an agent other than the DSEQ leaves the pins or resets them, and an instruction that changes them writes a
register of the unit. -/
theorem pinUnitChangesOnlyByItsWrites : Obligations.PinUnitChangesOnlyByItsWrites := by
  intro s t e h hne
  obtain ⟨rfl, ⟨f, -, rfl⟩ | ⟨i, hf, hx⟩⟩ | ⟨r, rfl, rfl⟩ | ⟨rfl, rfl⟩ | ⟨d, rfl, rfl⟩ := transition_cases h
  · exact absurd rfl hne
  · obtain hp | ⟨r, x, s', hw, hu, -, -⟩ := exec_pin hx
    · exact absurd hp hne
    · exact .inr ⟨rfl, i, r, x, hf, hw, Reg.unit_eq_pin_iff.1 hu⟩
  · exact absurd rfl hne
  · exact absurd rfl hne
  · exact .inl ⟨d, rfl⟩

/-- Settles O57, case by case over the function-select code of each pin. -/
theorem wireLevels : Obligations.WireLevels := by
  intro s
  refine ⟨wire_locked, fun h p hp h1 h0 => ?_, fun _ hsel => ?_, fun h h1 h0 => ?_, fun h hne => ?_, fun h hsel => ?_,
    Wire.allowsLevel_iff⟩
  · obtain ⟨x, -, rfl⟩ : ∃ x ∈ [Pin.a, .b, .c], (x, x.bit) = p := List.mem_map.1 hp
    exact wire_unselected h ((fsel_eq_none_iff _ _).2 ⟨h1, h0⟩)
  · exact wire_a_selected ((fsel_ne_none_iff _ .a).2 hsel)
  · have hboth : fsel s.pin .b = 0b11 := (fsel_eq_both_iff _ .b).2 ⟨h1, h0⟩
    rw [wire_b_selected h (by rw [hboth]; decide), if_pos hboth]
  · obtain ⟨hsome, hpartial⟩ := fsel_ne_of_partial (p := .b) hne
    rw [wire_b_selected h hsome, if_neg hpartial]
  · rw [wire_c_selected h ((fsel_ne_none_iff _ .c).2 hsel)]
    simp only [fsel_eq_pincFselCode_iff, Pin.bit]

/-- Settles O21: the four write instructions reach the register's rule, which takes the three bits. -/
theorem gpioOutWrites : Obligations.GpioOutWrites := by
  intro s x src hx
  have h := exec_pin_writeForms (r := .gpioOut) rfl hx s src
  simp only [written_gpioOut_advance, stored, setWidth_setWidth_or, setWidth_setWidth_and_not] at h
  exact h

/-- Settles O22: the four write instructions reach the register's rule, which takes the three bits. -/
theorem gpioDirWrites : Obligations.GpioDirWrites := by
  intro s x src hx
  have h := exec_pin_writeForms (r := .gpioDir) rfl hx s src
  simp only [written_gpioDir_advance, stored, setWidth_setWidth_or, setWidth_setWidth_and_not] at h
  exact h

/-- Settles O28: the seven conditions in the order of R149, Pin B's two stages in the order of the statement. -/
theorem adcOkIsTheConfiguration : Obligations.AdcOkIsTheConfiguration := by
  intro s
  refine ⟨?_, ?_⟩
  · rw [pinBAnalog_iff, and_left_comm]
  · simp only [adcOk, Bool.and_eq_true, beq_iff_eq, and_assoc]

end Sys2Proof.Machine
end

section
/-! SUPPORT. The conversion unit: the rule of each configuration register, check by check (R140-R146), the result that a
completion may draw (R151), and what can end a configured conversion (R150, R152). -/

namespace Sys2Proof.Machine

/-! ## The configuration registers (R140-R146) -/

/-- What a checked rule leaves: the first refusal whose condition holds, else what the rest of the rule leaves. -/
theorem settle_error_ite {c : Prop} [Decidable c] (s : State) (e : Refusal) (w : Except Refusal State) :
    settle s (if c then .error e else w) = if c then s.raiseRefuse e else settle s w :=
  apply_ite (settle s) c _ _

theorem exec_of_writes_adcCtl0 {i : Instr} {x : Word} {s : State} (hw : Writes i .adcCtl0 x s) (hx : Fits .adcCtl0 x) :
    exec i s = .next (
      if s.conv.pending = true then s.raiseRefuse (.adcBusy s.dseq.pc Reg.adcCtl0.off)
      else if s.conv.enc = true ∧ (x.getLsbD 4 ≠ s.conv.on ∨ x.extractLsb' 8 4 ≠ s.conv.sht) then
        s.raiseRefuse (.adcCfgLocked s.dseq.pc Reg.adcCtl0.off x)
      else if x.getLsbD 1 = true ∧ x.getLsbD 0 = false then s.raiseRefuse (.adcScNoEnc s.dseq.pc x)
      else (s.setConv (if x.getLsbD 1 = true then
          { s.conv.withCtl0 x with pending := true, ok := adcOk (s.setConv (s.conv.withCtl0 x)) }
        else s.conv.withCtl0 x)).advance) := by
  rw [exec_of_writes_fits hw rfl hx, writeReg, commit]
  simp only [writeAdcCtl0, settle_error_ite, Bool.and_eq_true, Bool.or_eq_true, bne_iff_ne, Bool.not_eq_true']
  cases x.getLsbD 1 <;> rfl

theorem exec_of_writes_adcCtl1 {i : Instr} {x : Word} {s : State} (hw : Writes i .adcCtl1 x s) (hx : Fits .adcCtl1 x) :
    exec i s = .next (
      if s.conv.pending = true then s.raiseRefuse (.adcBusy s.dseq.pc Reg.adcCtl1.off)
      else if s.conv.enc = true ∧ x.getLsbD 0 ≠ s.conv.shp then
        s.raiseRefuse (.adcCfgLocked s.dseq.pc Reg.adcCtl1.off x)
      else (s.written x .adcCtl1).advance) := by
  rw [exec_of_writes_fits hw rfl hx, writeReg, commit]
  simp only [writeAdcCtl1, settle_error_ite, Bool.and_eq_true, bne_iff_ne]
  rfl

theorem exec_of_writes_adcCtl2 {i : Instr} {x : Word} {s : State} (hw : Writes i .adcCtl2 x s) (hx : Fits .adcCtl2 x) :
    exec i s = .next (
      if s.conv.pending = true then s.raiseRefuse (.adcBusy s.dseq.pc Reg.adcCtl2.off)
      else if s.conv.enc = true ∧ x.extractLsb' 4 2 ≠ s.conv.res then
        s.raiseRefuse (.adcCfgLocked s.dseq.pc Reg.adcCtl2.off x)
      else if x.extractLsb' 4 2 = Config.resReserved then s.raiseRefuse (.fieldCode s.dseq.pc Reg.adcCtl2.off x)
      else (s.written x .adcCtl2).advance) := by
  rw [exec_of_writes_fits hw rfl hx, writeReg, commit]
  simp only [writeAdcCtl2, settle_error_ite, Bool.and_eq_true, bne_iff_ne]
  rfl

theorem exec_of_writes_adcMctl0 {i : Instr} {x : Word} {s : State} (hw : Writes i .adcMctl0 x s)
    (hx : Fits .adcMctl0 x) : exec i s = .next (
      if s.conv.pending = true then s.raiseRefuse (.adcBusy s.dseq.pc Reg.adcMctl0.off)
      else if s.conv.enc = true ∧ x.extractLsb' 0 4 ≠ s.conv.inch then
        s.raiseRefuse (.adcCfgLocked s.dseq.pc Reg.adcMctl0.off x)
      else (s.written x .adcMctl0).advance) := by
  rw [exec_of_writes_fits hw rfl hx, writeReg, commit]
  simp only [writeAdcMctl0, settle_error_ite, Bool.and_eq_true, bne_iff_ne]
  rfl

/-! ## The completion (R150, R151) -/

/-- The complete step is enabled for every result that R151 lets it draw. -/
theorem Event.enabled_complete_iff {s : State} {r : Word} : Event.enabled s (.complete r) = true ↔
    (s.dseq.status = .running ∨ s.dseq.status = .halted) ∧ s.conv.pending = true ∧
      (s.conv.ok = true → r.toNat ≤ 4095) := by
  have hdraw : (!s.conv.ok || decide (r ≤ Config.adcMax)) = true ↔ (s.conv.ok = true → r.toNat ≤ 4095) := by
    cases s.conv.ok <;> simp [BitVec.le_def]
  simp only [Event.enabled, Bool.and_eq_true, Status.live_iff, hdraw, and_assoc]

theorem Event.agent_eq_adc_iff {e : Event} : e.agent = .adc ↔ ∃ r, e = .complete r := by
  cases e <;> simp [Event.agent]

/-! ## A configured conversion in progress (R150-R152) -/

/-- A conversion is pending with conv_ok, and no fault or refusal is recorded. -/
def InProgress (s : State) : Prop := s.clean = true ∧ s.conv.pending = true ∧ s.conv.ok = true

/-- The step `e` to the state `t` ends a configured conversion: it completes, the watchdog resets the machine, or the DSEQ
loses conv_ok or stops. -/
def EndsConversion (e : Event) (t : State) : Prop :=
  (∃ r, e = .complete r ∧ r.toNat ≤ 4095 ∧ t.conv.result = r ∧ t.conv.ifg0 = true ∧ t.conv.pending = false) ∨
  (∃ d, e = .watchdog d) ∨ (e = .dseq ∧ (t.conv.ok = false ∨ t.clean = false))

theorem InProgress.fairlyEnabled {s : State} (h : InProgress s) : fairlyEnabled s .adc = true := by
  obtain ⟨hclean, hpending, hok⟩ := h
  rw [Machine.fairlyEnabled, show s.dseq.status.live = true from hclean, hpending, hok]
  rfl

/-- No instruction ends a pending conversion: only ADC_CTL0 could, and it is busy (R141). -/
theorem exec_keeps_pending {i : Instr} {s t : State} (h : exec i s = .next t) (hp : s.conv.pending = true) :
    t.conv.pending = true := by
  obtain ⟨r, x, s', -, -, -, hwr, rfl⟩ | ⟨f, rfl⟩ | ⟨e, rfl⟩ | ⟨dst, r, -, rfl⟩ | ⟨dst, src, d, x, -, -, -, rfl⟩ |
    ⟨r, mask, -, rfl⟩ | ⟨target, -, rfl⟩ | ⟨-, rfl⟩ := exec_cases h
  · obtain ⟨hadm, rfl⟩ := writeReg_eq_ok.1 hwr
    have hr : r ≠ .adcCtl0 := by
      rintro rfl
      exact Bool.false_ne_true (hadm.1.symm.trans hp)
    rw [State.advance_conv, written_pending, if_neg hr, hp]
  · exact hp
  · exact hp
  · simp [readEffect_eq, hp]
  · exact hp
  · split <;> simp [readEffect_eq, hp]
  · exact hp
  · exact hp

theorem transition_complete_ends {s t : State} {r : Word} (hs : InProgress s) (h : Transition s (.complete r) t) :
    EndsConversion (.complete r) t := by
  obtain ⟨-, -, hok⟩ := hs
  obtain ⟨hen, hfire⟩ := h
  obtain ⟨-, -, hdraw⟩ := Event.enabled_complete_iff.1 hen
  obtain rfl := Host.Outcome.next.inj hfire
  exact .inl ⟨r, rfl, hdraw hok, rfl, rfl, rfl⟩

/-- Every transition leaves a configured conversion in progress or ends it. -/
theorem transition_inProgress {s t : State} {e : Event} (hs : InProgress s) (h : Transition s e t) :
    InProgress t ∨ EndsConversion e t := by
  have hdseq : t.conv.pending = true → InProgress t ∨ EndsConversion .dseq t := by
    intro hp
    by_cases hlost : t.conv.ok = false ∨ t.clean = false
    · exact .inr (.inr (.inr ⟨rfl, hlost⟩))
    · rw [not_or, Bool.not_eq_false, Bool.not_eq_false] at hlost
      exact .inl ⟨hlost.2, hp, hlost.1⟩
  obtain ⟨rfl, ⟨f, -, rfl⟩ | ⟨i, -, hx⟩⟩ | ⟨r, rfl, -⟩ | ⟨-, rfl⟩ | ⟨d, rfl, -⟩ := transition_cases h
  · exact hdseq hs.2.1
  · exact hdseq (exec_keeps_pending hx hs.2.1)
  · exact .inr (transition_complete_ends hs h)
  · exact .inl hs
  · exact .inr (.inr (.inl ⟨d, rfl⟩))

/-- A moment's step leaves a configured conversion in progress or ends it; a stutter leaves it. -/
theorem Execution.inProgress_succ (x : Execution) {m : Nat} (h : InProgress (x.state m)) :
    InProgress (x.state (m + 1)) ∨ ∃ e, x.event m = some e ∧ EndsConversion e (x.state (m + 1)) := by
  have hf := x.follows m
  cases he : x.event m with
  | none =>
    rw [he] at hf
    exact .inl ((show x.state (m + 1) = x.state m from hf) ▸ h)
  | some e =>
    rw [he] at hf
    exact (transition_inProgress h hf).imp_right fun hend => ⟨e, rfl, hend⟩

/-- Under weak fairness a conversion that is in progress from some moment on completes, and that ends it (R152). -/
theorem Execution.endsConversion_of_fair {x : Execution} {n : Nat} (hfair : x.fair)
    (h : ∀ m, n ≤ m → InProgress (x.state m)) :
    ∃ m, n ≤ m ∧ ∃ e, x.event m = some e ∧ EndsConversion e (x.state (m + 1)) := by
  obtain ⟨m, hnm, hagent⟩ := hfair .adc n fun m hm => (h m hm).fairlyEnabled
  obtain ⟨e, he, hadc⟩ := Option.map_eq_some_iff.1 hagent
  obtain ⟨r, rfl⟩ := Event.agent_eq_adc_iff.1 hadc
  have hf := x.follows m
  rw [he] at hf
  exact ⟨m, hnm, _, he, transition_complete_ends (h m hnm) hf⟩

/-- A configured conversion ends in a fair execution, and it is in progress up to the step that ends it. -/
theorem Execution.inProgress_until_ends {x : Execution} {n : Nat} (hfair : x.fair) (h : InProgress (x.state n)) :
    ∃ m, n ≤ m ∧ (∀ k, n ≤ k → k ≤ m → InProgress (x.state k)) ∧
      ∃ e, x.event m = some e ∧ EndsConversion e (x.state (m + 1)) := by
  by_contra hnever
  have hprogress : ∀ m, n ≤ m → ∀ k, n ≤ k → k ≤ m → InProgress (x.state k) := by
    intro m hm
    induction m, hm using Nat.le_induction with
    | base =>
      intro k hnk hkn
      obtain rfl := Nat.le_antisymm hnk hkn
      exact h
    | succ m hm ih =>
      intro k hnk hkm
      obtain hkm | rfl := Nat.le_succ_iff.1 hkm
      · exact ih k hnk hkm
      · obtain hnext | hend := x.inProgress_succ (ih m hm le_rfl)
        · exact hnext
        · exact absurd ⟨m, hm, ih, hend⟩ hnever
  obtain ⟨m, hm, hend⟩ := Execution.endsConversion_of_fair hfair fun m hm => hprogress m hm m hm le_rfl
  exact hnever ⟨m, hm, hprogress m hm, hend⟩

end Sys2Proof.Machine
end

section
/-! PROOFS. The obligations on the conversion unit: the rules of its configuration registers, the lock under ENC, the
complete step, and the end of a configured conversion in a fair execution. -/

namespace Sys2Proof.Machine

/-- Settles O24: the register's checks in the order of R140, and SC is stored as conv_pending. -/
theorem adcCtl0WriteRule : Obligations.AdcCtl0WriteRule :=
  ⟨fun _ _ _ hw hx => exec_of_writes_adcCtl0 hw hx, stored_adcCtl0_getLsbD_one⟩

/-- Settles O27: each register's checks in order, then its field. -/
theorem adcConfigurationWriteRules : Obligations.AdcConfigurationWriteRules :=
  fun _ _ _ => ⟨exec_of_writes_adcCtl1, exec_of_writes_adcCtl2, exec_of_writes_adcMctl0⟩

/-- Settles O26: where nothing is pending the lock is the next check, and a field that is left is written with its own
value. -/
theorem enabledConverterLocksItsConfiguration : Obligations.EnabledConverterLocksItsConfiguration := by
  intro s i r x hp henc hw hx
  have hidle : ¬ s.conv.pending = true := Bool.eq_false_iff.1 hp
  refine ⟨?_, ?_⟩
  · rintro (⟨rfl, hne⟩ | ⟨rfl, hne⟩ | ⟨rfl, hne⟩ | ⟨rfl, hne⟩)
    · rw [exec_of_writes_adcCtl0 hw hx, if_neg hidle, if_pos ⟨henc, hne⟩]; rfl
    · rw [exec_of_writes_adcCtl1 hw hx, if_neg hidle, if_pos ⟨henc, hne⟩]; rfl
    · rw [exec_of_writes_adcCtl2 hw hx, if_neg hidle, if_pos ⟨henc, hne⟩]; rfl
    · rw [exec_of_writes_adcMctl0 hw hx, if_neg hidle, if_pos ⟨henc, hne⟩]; rfl
  · rintro (⟨rfl, heq⟩ | ⟨rfl, heq, hcode⟩ | ⟨rfl, heq⟩)
    · rw [exec_of_writes_admits hw hx ⟨hp, fun _ => heq⟩, State.written, heq]; rfl
    · rw [exec_of_writes_admits hw hx ⟨hp, fun _ => heq, heq.trans_ne hcode⟩, State.written, heq]; rfl
    · rw [exec_of_writes_admits hw hx ⟨hp, fun _ => heq⟩, State.written, heq]; rfl

/-- Settles O42: enabledness says which results may be drawn, and the effect is the completion. -/
theorem completeStep : Obligations.CompleteStep := by
  intro s t r
  have hfire : Event.fire s (.complete r) = .next t ↔ t = s.finishConversion r := by simp [Event.fire, eq_comm]
  rw [Transition, hfire, Event.enabled_complete_iff, and_assoc, and_assoc]
  rfl

/-- Settles O55: the step that ends the conversion is one of the three that the statement names. -/
theorem configuredConversionCompletes : Obligations.ConfiguredConversionCompletes := by
  intro x n hfair hclean hpending hok
  obtain ⟨m, hm, hprogress, e, he, hend⟩ := Execution.inProgress_until_ends hfair ⟨hclean, hpending, hok⟩
  refine ⟨m, hm, hprogress, ?_⟩
  rw [he]
  obtain ⟨r, rfl, hresult⟩ | ⟨d, rfl⟩ | ⟨rfl, hlost⟩ := hend
  · exact .inl ⟨r, rfl, hresult⟩
  · exact .inr (.inl ⟨d, rfl⟩)
  · exact .inr (.inr ⟨rfl, hlost⟩)

end Sys2Proof.Machine
end

section
/-! SUPPORT. The pulse unit: a tick of the counter (R178); its registers, when a write is refused and what it leaves otherwise
(R170-R176); the compare latch (R180); the output level (R181) and the wires of a period (R183); the counter of a fair
execution (R178, R179); the integer actuation interface (R187, R188). -/

namespace Sys2Proof.Machine

/-! ## A tick of the counter (R178) -/

theorem tick_eq_ite (u : PulseUnit) :
    u.tick = if u.period.toNat ≤ u.count.toNat then u.boundary else { u with count := u.count + 1 } := by
  simp only [PulseUnit.tick, BitVec.le_def]

theorem tick_of_period_le {u : PulseUnit} (h : u.period.toNat ≤ u.count.toNat) : u.tick = u.boundary := by
  rw [tick_eq_ite, if_pos h]

theorem tick_of_lt_period {u : PulseUnit} (h : u.count.toNat < u.period.toNat) :
    u.tick = { u with count := u.count + 1 } := by
  rw [tick_eq_ite, if_neg (Nat.not_le.2 h)]

@[simp] theorem tick_period (u : PulseUnit) : u.tick.period = u.period := by unfold PulseUnit.tick; split <;> rfl
@[simp] theorem tick_mc (u : PulseUnit) : u.tick.mc = u.mc := by unfold PulseUnit.tick; split <;> rfl
@[simp] theorem tick_outmod (u : PulseUnit) : u.tick.outmod = u.outmod := by unfold PulseUnit.tick; split <;> rfl

/-- Below the period a tick adds one, and a word below the period has room for it. -/
theorem tick_count_toNat_of_lt_period {u : PulseUnit} (h : u.count.toNat < u.period.toNat) :
    u.tick.count.toNat = u.count.toNat + 1 := by
  have hroom : u.count.toNat + 1 < 65536 := by have := u.period.isLt; omega
  rw [tick_of_lt_period h, BitVec.toNat_add]
  exact Nat.mod_eq_of_lt hroom

/-- A tick goes to 0 at the period and adds one below it, so it never passes it (R182). -/
theorem tick_count_le_period (u : PulseUnit) : u.tick.count ≤ u.tick.period := by
  rw [BitVec.le_def, tick_period]
  obtain h | h := Nat.lt_or_ge u.count.toNat u.period.toNat
  · rw [tick_count_toNat_of_lt_period h]
    exact h
  · rw [tick_of_period_le h]
    exact Nat.zero_le _

/-! ## The registers of the pulse unit (R170-R176) -/

/-- A register's rule with one check: refused where the check fails, else written (R24, R107, R220). -/
theorem exec_of_writes_ite {i : Instr} {r : Reg} {x : Word} {s : State} {e : Refusal} {c : Prop} [Decidable c]
    (hw : Writes i r x s) (hr : r.readOnly = false) (hx : Fits r x) (herr : c → writeReg r x s = .error e)
    (hadm : ¬ c → Admits s x r) :
    exec i s = .next (if c then s.raiseRefuse e else (s.written x r).advance) := by
  split_ifs with hc
  · rw [exec_of_writes_fits hw hr hx, herr hc, commit_error]
  · exact exec_of_writes_admits hw hx (hadm hc)

/-- The MC codes that are neither stop nor up are the two reserved ones (R40). -/
theorem mc_reserved_iff (m : BitVec 2) : m ≠ Config.mcStop ∧ m ≠ Config.mcUp ↔ m = 0b10 ∨ m = 0b11 := by
  revert m; decide

theorem exec_of_writes_tmrCtl {i : Instr} {x : Word} {s : State} (hw : Writes i .tmrCtl x s) (hx : Fits .tmrCtl x) :
    exec i s = .next (
      if x.extractLsb' 4 2 = 0b10 ∨ x.extractLsb' 4 2 = 0b11 then
        s.raiseRefuse (.fieldCode s.dseq.pc Reg.tmrCtl.off x)
      else (s.written x .tmrCtl).advance) := by
  refine exec_of_writes_ite hw rfl hx (fun hc => if_pos ((mc_reserved_iff _).2 hc)) fun hc => ?_
  rwa [← mc_reserved_iff, ← not_or, not_not] at hc

/-- A register whose bits are all defined takes every value, as the period and the compare buffer do (R27, R108). -/
theorem fits_of_definedMask_eq_allOnes {r : Reg} (h : r.definedMask = BitVec.allOnes 16) (x : Word) : Fits r x := by
  rw [Fits, h, BitVec.not_allOnes]
  exact BitVec.and_zero

theorem exec_of_writes_tmrCcr0 {i : Instr} {x : Word} {s : State} (hw : Writes i .tmrCcr0 x s) :
    exec i s = .next (
      if x.toNat < s.pulse.count.toNat then s.raiseRefuse (.periodBelowCount s.dseq.pc x s.pulse.count)
      else (s.written x .tmrCcr0).advance) :=
  exec_of_writes_ite hw rfl (fits_of_definedMask_eq_allOnes rfl x) (fun hlt => if_pos (BitVec.lt_def.2 hlt))
    fun hle => BitVec.le_def.2 (Nat.not_lt.1 hle)

theorem exec_of_writes_tmrCctl1 {i : Instr} {x : Word} {s : State} (hw : Writes i .tmrCctl1 x s)
    (hx : Fits .tmrCctl1 x) : exec i s = .next (
      if x.extractLsb' 5 3 = 0b000 ∨ x.extractLsb' 5 3 = 0b111 then (s.written x .tmrCctl1).advance
      else s.raiseRefuse (.fieldCode s.dseq.pc Reg.tmrCctl1.off x)) := by
  rw [← ite_not]
  exact exec_of_writes_ite hw rfl hx (fun hc => if_pos (not_or.1 hc)) not_not.1

theorem exec_of_writes_tmrCcr1 {i : Instr} {x : Word} {s : State} (hw : Writes i .tmrCcr1 x s) :
    exec i s = .next (s.written x .tmrCcr1).advance :=
  exec_of_writes_admits hw (fits_of_definedMask_eq_allOnes rfl x) trivial

/-! ## The compare latch (R180) -/

/-- A write of TMR_CTL with TCLR set that is not refused is a period boundary (R172). -/
theorem clear_boundary {i : Instr} {x : Word} {s t : State} (hw : Writes i .tmrCtl x s) (hclr : x.getLsbD 2 = true)
    (h : exec i s = .next t) (hrun : t.dseq.status = .running) :
    t.pulse.cmpAct = s.pulse.ccr1 ∧ t.pulse.count = 0 := by
  obtain ⟨-, s', hwr, rfl⟩ := admitted_of_running hw h hrun
  obtain ⟨-, rfl⟩ := writeReg_eq_ok.1 hwr
  simp [State.written, hclr]

/-- While the counter is not stopped, an instruction that changes CMP_ACT is an admitted write of TMR_CTL with TCLR set
(R172, R176, R180). -/
theorem exec_cmpAct {i : Instr} {s t : State} (h : exec i s = .next t) (hmc : s.pulse.mc ≠ Config.mcStop) :
    t.pulse.cmpAct = s.pulse.cmpAct ∨
      t.dseq.status = s.dseq.status ∧ ∃ x, Writes i .tmrCtl x s ∧ x.getLsbD 2 = true := by
  obtain hp | ⟨r, x, s', hw, hu, hwr, rfl⟩ := exec_pulse h
  · exact .inl (by rw [hp])
  · obtain ⟨-, ⟨rfl, -, -, -, -, ⟨-, hcmp⟩ | ⟨hclr, -, -⟩⟩ | ⟨-, -, hp⟩ | ⟨-, -, hp⟩ | ⟨-, -, hcmp⟩⟩ :=
      writePulse_frame hu hwr
    · exact .inl hcmp
    · refine .inr ⟨?_, x, hw, hclr⟩
      rw [State.advance_dseq_status, (writeReg_frame hwr).1]
    · exact .inl (by rw [State.advance_pulse, hp])
    · exact .inl (by rw [State.advance_pulse, hp])
    · exact .inl (hcmp hmc)

/-! ## The output of the pulse unit (R181, R183) -/

theorem timerOut_low {u : PulseUnit} (h : u.outmod = Config.outmodLow) : timerOut u = .lo := if_pos h

theorem timerOut_resetSet {u : PulseUnit} (hout : u.outmod = Config.outmodResetSet) (hmc : u.mc = Config.mcUp) :
    timerOut u = if u.count.toNat < u.cmpAct.toNat then .hi else .lo := by
  have hlow : u.outmod ≠ Config.outmodLow := by rw [hout]; decide
  simp only [timerOut, if_neg hlow, if_pos (And.intro hout hmc), BitVec.lt_def]

theorem timerOut_undef {u : PulseUnit} (hlow : u.outmod ≠ Config.outmodLow)
    (h : ¬ (u.outmod = Config.outmodResetSet ∧ u.mc = Config.mcUp)) : timerOut u = .undef := by
  rw [timerOut, if_neg hlow, if_neg h]

/-- The wires of `n` ticks are the output levels after 0, 1, ..., n - 1 ticks. -/
theorem timerTrace_eq_map (n : Nat) (u : PulseUnit) :
    timerTrace n u = (List.range n).map fun k => timerOut (PulseUnit.tick^[k] u) := by
  induction n generalizing u with
  | zero => rfl
  | succ n ih => rw [timerTrace, ih, List.range_succ_eq_map, List.map_cons, List.map_map]; rfl

/-- A number up to some word's value is kept by a word. -/
theorem toNat_ofNat_of_le {w : Word} {k : Nat} (h : k ≤ w.toNat) : (BitVec.ofNat 16 k).toNat = k := by
  rw [BitVec.toNat_ofNat]
  exact Nat.mod_eq_of_lt (h.trans_lt w.isLt)

/-- Within a period the counter tells how many ticks there have been, and nothing else has changed (R178). -/
theorem iterate_tick {u : PulseUnit} (h0 : u.count = 0) {k : Nat} (hk : k ≤ u.period.toNat) :
    PulseUnit.tick^[k] u = { u with count := BitVec.ofNat 16 k } := by
  induction k with
  | zero => exact congrArg (fun w => { u with count := w }) h0
  | succ k ih =>
    have hle : k ≤ u.period.toNat := Nat.le_of_succ_le hk
    rw [Function.iterate_succ_apply', ih hle, tick_of_lt_period ((toNat_ofNat_of_le hle).trans_lt hk), BitVec.ofNat_add]
    rfl

/-- In a period of reset/set from counter 0 the output is high up to the latched compare value (R181, R183). -/
theorem timerOut_iterate_tick {u : PulseUnit} (hmc : u.mc = Config.mcUp) (hout : u.outmod = Config.outmodResetSet)
    (h0 : u.count = 0) {k : Nat} (hk : k ≤ u.period.toNat) :
    timerOut (PulseUnit.tick^[k] u) = if k < u.cmpAct.toNat then .hi else .lo := by
  rw [iterate_tick h0 hk, timerOut_resetSet (u := { u with count := BitVec.ofNat 16 k }) hout hmc, toNat_ofNat_of_le hk]

/-- A list that changes its value once, as two constant parts. -/
theorem map_range_ite_lt {α : Type} (n c : Nat) (a b : α) :
    ((List.range n).map fun k => if k < c then a else b) =
      List.replicate (min c n) a ++ List.replicate (n - min c n) b := by
  refine List.ext_getElem (by simp) fun k hk _ => ?_
  simp only [List.length_map, List.length_range] at hk
  simp only [List.getElem_map, List.getElem_range, List.getElem_append, List.length_replicate, List.getElem_replicate,
    lt_min_iff, hk, and_true]
  split <;> rfl

/-- The tick after the period has been reached ends it (R178, R180). -/
theorem iterate_tick_period {u : PulseUnit} (h0 : u.count = 0) :
    PulseUnit.tick^[u.period.toNat + 1] u = u.boundary := by
  rw [Function.iterate_succ_apply', iterate_tick h0 le_rfl, tick_of_period_le (by simp)]
  rfl

/-! ## The counter of a fair execution (R178, R179) -/

/-- Whatever leaves the counter other than 0 has not lowered it, and a tick has raised it (R172, R173, R178, R240). -/
theorem transition_count_of_ne_zero {s t : State} {e : Event} (h : Transition s e t) (hne : t.pulse.count ≠ 0) :
    s.pulse.count.toNat ≤ t.pulse.count.toNat ∧ (e = .tick → s.pulse.count.toNat < t.pulse.count.toNat) := by
  obtain ⟨rfl, ⟨f, -, rfl⟩ | ⟨i, -, hx⟩⟩ | ⟨r, rfl, rfl⟩ | ⟨rfl, rfl⟩ | ⟨d, rfl, rfl⟩ := transition_cases h
  · exact ⟨le_rfl, nofun⟩
  · obtain hc | ⟨hc, -⟩ := exec_count hx
    · exact ⟨by rw [hc], nofun⟩
    · exact absurd hc hne
  · exact ⟨le_rfl, nofun⟩
  · obtain hlt | hle := Nat.lt_or_ge s.pulse.count.toNat s.pulse.period.toNat
    · have hup := tick_count_toNat_of_lt_period hlt
      rw [State.setPulse_pulse, hup]
      exact ⟨Nat.le_succ _, fun _ => Nat.lt_succ_self _⟩
    · exact absurd (by rw [State.setPulse_pulse, tick_of_period_le hle]; rfl) hne
  · exact absurd rfl hne

/-- From one moment to the next, nothing that leaves the counter other than 0 has lowered it, and a tick has raised it. -/
theorem Execution.count_succ_of_ne_zero (x : Execution) {m : Nat} (hne : (x.state (m + 1)).pulse.count ≠ 0) :
    (x.state m).pulse.count.toNat ≤ (x.state (m + 1)).pulse.count.toNat ∧
      (x.event m = some .tick → (x.state m).pulse.count.toNat < (x.state (m + 1)).pulse.count.toNat) := by
  have hf := x.follows m
  cases he : x.event m with
  | none =>
    rw [he] at hf
    rw [show x.state (m + 1) = x.state m from hf]
    exact ⟨le_rfl, nofun⟩
  | some e =>
    rw [he] at hf
    obtain ⟨hle, hlt⟩ := transition_count_of_ne_zero hf hne
    exact ⟨hle, fun htick => hlt (Option.some.inj htick)⟩

theorem Event.agent_eq_tmr_iff {e : Event} : e.agent = .tmr ↔ e = .tick := by
  cases e <;> simp [Event.agent]

/-- A fair execution whose tick is fairly enabled from some moment on ticks after every later moment (R179). -/
theorem Execution.ticks_of_fair {x : Execution} {n : Nat} (hfair : x.fair)
    (h : ∀ m, n ≤ m → fairlyEnabled (x.state m) .tmr = true) {k : Nat} (hk : n ≤ k) :
    ∃ m, k ≤ m ∧ x.event m = some .tick := by
  obtain ⟨m, hkm, hagent⟩ := hfair .tmr k fun m hm => h m (hk.trans hm)
  obtain ⟨e, he, htmr⟩ := Option.map_eq_some_iff.1 hagent
  exact ⟨m, hkm, Event.agent_eq_tmr_iff.1 htmr ▸ he⟩

/-- A counter that does not return to 0 after some moment is never lowered after it. -/
theorem Execution.count_mono_of_ne_zero (x : Execution) {k m : Nat} (hkm : k ≤ m)
    (hne : ∀ j, k ≤ j → (x.state j).pulse.count ≠ 0) :
    (x.state k).pulse.count.toNat ≤ (x.state m).pulse.count.toNat := by
  induction m, hkm using Nat.le_induction with
  | base => exact le_rfl
  | succ m hkm ih => exact ih.trans (x.count_succ_of_ne_zero (hne (m + 1) (Nat.le_succ_of_le hkm))).1

/-- A counter that never returns to 0 passes every bound, for each tick raises it and nothing lowers it. -/
theorem Execution.count_unbounded {x : Execution} {n : Nat} (hticks : ∀ k, n ≤ k → ∃ m, k ≤ m ∧ x.event m = some .tick)
    (hne : ∀ m, n ≤ m → (x.state m).pulse.count ≠ 0) (b : Nat) :
    ∃ m, n ≤ m ∧ b ≤ (x.state m).pulse.count.toNat := by
  induction b with
  | zero => exact ⟨n, le_rfl, Nat.zero_le _⟩
  | succ b ih =>
    obtain ⟨k, hnk, hb⟩ := ih
    obtain ⟨m, hkm, htick⟩ := hticks k hnk
    have hnm : n ≤ m + 1 := by omega
    have hkeeps := x.count_mono_of_ne_zero hkm fun j hj => hne j (hnk.trans hj)
    have hraises := (x.count_succ_of_ne_zero (hne (m + 1) hnm)).2 htick
    exact ⟨m + 1, hnm, by omega⟩

/-! ## The integer actuation interface (R187, R188) -/

theorem compareOfCommand_eq {c : Int} (h0 : 0 ≤ c) (hc : c ≤ 65535) : compareOfCommand c = BitVec.ofInt 16 (c / 10) := by
  lift c to Nat using h0
  rw [compareOfCommand, if_pos hc]
  rfl

/-- The integer modulo 2^16 is the same word. -/
theorem ofInt_emod (c : Int) : BitVec.ofInt 16 (c % 65536) = BitVec.ofInt 16 c := by
  apply BitVec.eq_of_toNat_eq
  simp only [BitVec.toNat_ofInt]
  omega

/-- Division by ten of the command's word is division of the command modulo 2^16 (R188). -/
theorem ofInt_div_cmpDiv (c : Int) : BitVec.ofInt 16 c / Config.cmpDiv = BitVec.ofInt 16 (c % 65536 / 10) := by
  apply BitVec.eq_of_toNat_eq
  simp only [BitVec.toNat_udiv, BitVec.toNat_ofInt, show Config.cmpDiv.toNat = 10 from rfl]
  omega

end Sys2Proof.Machine
end

section
/-! SUPPORT. The invariant of the machine: which changes of a state keep it, and that every write, instruction, agent step
and step does (R125, R141, R170, R175, R182). -/

namespace Sys2Proof.Machine

/-! ## The parts of the invariant -/

/-- ADC_OK outlives every change that leaves the conversion unit's configuration and Pin B's function (R149). -/
theorem adcOk_of_frame {s t : State} {ok ifg0 : Bool} (hconv : t.conv = { s.conv with ok := ok, ifg0 := ifg0 })
    (hparams : t.params = s.params) (hpin : pinBAnalog s = true → pinBAnalog t = true) (h : adcOk s = true) :
    adcOk t = true := by
  simp only [adcOk, Bool.and_eq_true] at h ⊢
  rw [hconv, hparams]
  obtain ⟨⟨hcfg, han⟩, hclk⟩ := h
  exact ⟨⟨hcfg, hpin han⟩, hclk⟩

/-- A change that leaves the configuration keeps the conversion's invariant, if conv_ok can be true after it only where Pin B
is still analog (R125, C11). -/
theorem convInv_of_frame {s t : State} (hconv : t.conv = { s.conv with ok := t.conv.ok, ifg0 := t.conv.ifg0 })
    (hparams : t.params = s.params) (hok : t.conv.ok = true →
      s.conv.ok = true ∧ (s.conv.pending = true → pinBAnalog s = true → pinBAnalog t = true))
    (h : convInv s) : convInv t := by
  intro hpt
  have hp : s.conv.pending = true := by rwa [hconv] at hpt
  obtain ⟨henc, hadc⟩ := h hp
  refine ⟨by rwa [hconv], fun hokt => ?_⟩
  obtain ⟨hoks, hpin⟩ := hok hokt
  exact adcOk_of_frame hconv hparams (hpin hp) (hadc hoks)

/-- An admitted write of a pulse register keeps the counter within the period and both codes unreserved (R170-R176). -/
theorem writePulse_keeps_countInv_codesInv {r : Reg} {x : Word} {s t : State} (hu : r.unit = .pulse)
    (hw : writeReg r x s = .ok t) (hcount : countInv s) (hcodes : codesInv s) : countInv t ∧ codesInv t := by
  rw [countInv] at hcount ⊢
  rw [codesInv] at hcodes ⊢
  obtain ⟨hmcs, houts⟩ := hcodes
  obtain ⟨-, ⟨-, hmc, hper, hout, -, ⟨hc, -⟩ | ⟨-, hc, -⟩⟩ | ⟨-, hle, hp⟩ | ⟨-, hout, hp⟩ | ⟨-, hp, -⟩⟩ :=
    writePulse_frame hu hw
  · exact ⟨by rwa [hc, hper], hmc, by rwa [hout]⟩
  · exact ⟨by rw [hc]; exact BitVec.le_def.2 (Nat.zero_le _), hmc, by rwa [hout]⟩
  · rw [hp]
    exact ⟨hle, hmcs, houts⟩
  · exact ⟨by rwa [hp], by rwa [hp], hout⟩
  · rw [hp]
    exact ⟨hcount, hmcs, houts⟩

/-! ## What keeps the invariant -/

/-- Every admitted write keeps the invariant: each unit's registers touch only its own part, but for the pins and the lock,
which conv_ok follows or which only turn Pin B analog (R125, R234). -/
theorem writeReg_keeps_inv {r : Reg} {x : Word} {s t : State} (hw : writeReg r x s = .ok t) (h : Inv s) : Inv t := by
  obtain ⟨hcount, hcodes, hconv⟩ := h
  cases hu : r.unit with
  | pin =>
    obtain ⟨-, -, hpulse, -, hparams, -, hc, hok⟩ := writePin_frame hu hw
    refine ⟨by rwa [countInv, hpulse], by rwa [codesInv, hpulse], convInv_of_frame ?_ hparams hok hconv⟩
    rw [hc]
  | conversion =>
    obtain ⟨-, ht, -, -, hpending⟩ := writeConv_frame hu hw
    have hpulse : t.pulse = s.pulse := by rw [ht]; rfl
    refine ⟨by rwa [countInv, hpulse], by rwa [codesInv, hpulse], fun hp => ?_⟩
    obtain ⟨henc, hok⟩ := hpending hp
    exact ⟨henc, fun hokt => hok ▸ hokt⟩
  | pulse =>
    obtain ⟨hcount', hcodes'⟩ := writePulse_keeps_countInv_codesInv hu hw hcount hcodes
    refine ⟨hcount', hcodes', ?_⟩
    rw [(writePulse_frame hu hw).1]
    exact hconv
  | system =>
    obtain ⟨ht, -, hlock⟩ := writeSys_frame hu hw
    rw [ht]
    refine ⟨hcount, hcodes, convInv_of_frame rfl rfl (fun hok => ⟨hok, fun _ han => ?_⟩) hconv⟩
    rw [pinBAnalog_iff] at han ⊢
    obtain ⟨h1, h0, hl⟩ := han
    exact ⟨h1, h0, hlock hl⟩

/-- The effect of a read is in IFG0 only, which the invariant does not speak of (R147). -/
theorem readEffect_keeps_inv (r : Reg) {s : State} (h : Inv s) : Inv (readEffect r s) := by
  obtain ⟨hcount, hcodes, hconv⟩ := h
  rw [readEffect_eq]
  exact ⟨hcount, hcodes, convInv_of_frame rfl rfl (fun hok => ⟨hok, fun _ han => han⟩) hconv⟩

theorem exec_keeps_inv {i : Instr} {s t : State} (hx : exec i s = .next t) (h : Inv s) : Inv t := by
  obtain ⟨r, x, s', -, -, -, hwr, rfl⟩ | ⟨f, rfl⟩ | ⟨e, rfl⟩ | ⟨dst, r, -, rfl⟩ | ⟨dst, src, d, x, -, -, -, rfl⟩ |
    ⟨r, mask, -, rfl⟩ | ⟨target, -, rfl⟩ | ⟨-, rfl⟩ := exec_cases hx
  · have hs' : Inv s' := writeReg_keeps_inv hwr h
    exact hs'
  · exact h
  · exact h
  · exact readEffect_keeps_inv r h
  · exact h
  · split <;> exact readEffect_keeps_inv r h
  · exact h
  · exact h

/-- Every transition keeps the invariant: a completion leaves nothing pending, and a reset is the state of R51. -/
theorem transition_keeps_inv {s t : State} {e : Event} (htr : Transition s e t) (h : Inv s) : Inv t := by
  obtain ⟨-, ⟨f, -, rfl⟩ | ⟨i, -, hx⟩⟩ | ⟨r, -, rfl⟩ | ⟨-, rfl⟩ | ⟨d, -, rfl⟩ := transition_cases htr
  · exact h
  · exact exec_keeps_inv hx h
  · obtain ⟨hcount, hcodes, -⟩ := h
    exact ⟨hcount, hcodes, nofun⟩
  · obtain ⟨hcount, hcodes, hconv⟩ := h
    refine ⟨tick_count_le_period _, ?_, hconv⟩
    rwa [codesInv, State.setPulse_pulse, tick_mc, tick_outmod]
  · exact ⟨BitVec.le_refl (0 : Word), ⟨.inl rfl, .inl rfl⟩, nofun⟩

end Sys2Proof.Machine
end

section
/-! PROOFS. The obligations on the timer and the pulse output: the invariant, the rules of the timer's registers, the tick, the
compare latch, the counter of a fair execution, the output level and the high time of a period, and the integer actuation. -/

namespace Sys2Proof.Machine

/-- Settles O54: a step takes the schedule's entry, which the invariant does not speak of, and makes at most one
transition. -/
theorem everyStepKeepsTheInvariant : Obligations.EveryStepKeepsTheInvariant := by
  intro s t h hstep
  obtain rfl | htr := step_cases hstep
  · exact h
  · exact transition_keeps_inv (s := takeEvent s) htr h

/-- Settles O29: the code of MC is the only check of the register's own rule. -/
theorem tmrCtlWriteRule : Obligations.TmrCtlWriteRule :=
  fun _ _ _ hw hx => exec_of_writes_tmrCtl hw hx

/-- Settles O31: the code of OUTMOD is the only check of the register's own rule. -/
theorem outmodWriteRule : Obligations.OutmodWriteRule :=
  fun _ _ _ hw hx => exec_of_writes_tmrCctl1 hw hx

/-- Settles O43: enabledness is liveness and up mode, and the effect is one tick of the counter. -/
theorem tickStep : Obligations.TickStep := by
  intro s t
  have hfire : Event.fire s .tick = .next t ↔ t = s.setPulse s.pulse.tick := by simp [Event.fire, eq_comm]
  rw [Transition, hfire]
  simp only [Event.enabled, Bool.and_eq_true, Status.live_iff, beq_iff_eq, and_assoc, tick_eq_ite]
  rfl

/-- Settles O50, transition by transition: of the instructions only a TMR_CTL write with TCLR latches in up mode, and a tick
latches at the period only. -/
theorem compareLatchesOnlyAtABoundary : Obligations.CompareLatchesOnlyAtABoundary := by
  intro s t e h
  obtain ⟨rfl, ⟨f, hf, rfl⟩ | ⟨i, hf, hx⟩⟩ | ⟨r, rfl, rfl⟩ | ⟨rfl, rfl⟩ | ⟨d, rfl, rfl⟩ := transition_cases h
  · exact ⟨nofun, fun j x _ hj => by simp [hf] at hj, fun _ hne => absurd rfl hne⟩
  · have hrun : s.dseq.status = .running := by simpa [Event.enabled] using h.1
    refine ⟨nofun, fun j x _ hj hw hclr ht => ?_, fun hmc hne => ?_⟩
    · obtain rfl := Except.ok.inj (hf.symm.trans hj)
      exact clear_boundary hw hclr hx ht
    · obtain hcmp | ⟨hst, x, hw, hclr⟩ := exec_cmpAct hx (by rw [hmc]; decide)
      · exact absurd hcmp hne
      · exact .inr (.inr ⟨rfl, i, x, hf, hw, hclr, hst.trans hrun⟩)
  · exact ⟨nofun, nofun, fun _ hne => absurd rfl hne⟩
  · refine ⟨fun _ hle => ?_, nofun, fun _ hne => .inr (.inl ⟨rfl, ?_⟩)⟩
    · rw [State.setPulse_pulse, tick_of_period_le hle]
      exact ⟨rfl, rfl⟩
    · by_contra hlt
      exact hne (by rw [State.setPulse_pulse, tick_of_lt_period (Nat.lt_of_not_le hlt)])
  · exact ⟨nofun, nofun, fun _ _ => .inl ⟨d, rfl⟩⟩

/-- Settles O56: a counter that stayed off 0 would pass the range of a word. -/
theorem fairCounterReturnsToZero : Obligations.FairCounterReturnsToZero := by
  intro x n hfair h
  by_contra hnever
  have hne : ∀ m, n ≤ m → (x.state m).pulse.count ≠ 0 := fun m hm h0 => hnever ⟨m, hm, h0⟩
  have henabled : ∀ m, n ≤ m → fairlyEnabled (x.state m) .tmr = true := by
    intro m hm
    obtain ⟨hmc, htssel, hclk, hclean, -⟩ := h m hm
    have hlive : (x.state m).dseq.status.live = true := hclean
    simp [fairlyEnabled, Event.enabled, hlive, hmc, htssel, hclk]
  obtain ⟨m, -, hpast⟩ := Execution.count_unbounded (fun k => Execution.ticks_of_fair hfair henabled) hne 65536
  exact absurd (x.state m).pulse.count.isLt (Nat.not_lt.2 hpast)

/-- Settles O59: before tick k the counter is k, and the tick after the period's value is the boundary. -/
theorem highTicksOfAPeriod : Obligations.HighTicksOfAPeriod := by
  intro u hmc hout h0
  refine ⟨?_, by rw [iterate_tick_period h0]; rfl, by rw [iterate_tick_period h0]; rfl⟩
  rw [timerTrace_eq_map, ← map_range_ite_lt]
  refine List.map_congr_left fun k hk => ?_
  exact timerOut_iterate_tick hmc hout h0 (Nat.lt_succ_iff.1 (List.mem_range.1 hk))

/-- Settles O60: each command's compare value is the word of the integer that the statement names. -/
theorem integerActuation : Obligations.IntegerActuation := by
  intro s c
  refine ⟨fun hlive => ?_, fun f hs => by simp [actuateInt, hs], fun r hs => by simp [actuateInt, hs]⟩
  rw [actuateInt_live hlive]
  refine ⟨fun h0 hc => ?_, fun hneg hp => ?_, fun hneg hp => ?_, fun hneg hp => ?_⟩
  · rw [actuateLive, if_pos h0, compareOfCommand_eq h0 hc]
  · rw [actuateLive, if_neg (Int.not_le.2 hneg), hp]
    rfl
  · rw [actuateLive, if_neg (Int.not_le.2 hneg), hp, ← ofInt_div_cmpDiv]
  · rw [actuateLive, if_neg (Int.not_le.2 hneg), hp, ofInt_emod]
    rfl

/-- Settles O30: the register has no reserved bit, and the counter's value is the only check. -/
theorem periodWriteRule : Obligations.PeriodWriteRule :=
  fun _ _ _ hw => exec_of_writes_tmrCcr0 hw

/-- Settles O32: the register has no reserved bit and its rule refuses no value. -/
theorem compareWriteRule : Obligations.CompareWriteRule :=
  fun _ _ _ hw => exec_of_writes_tmrCcr1 hw

/-- Settles O58: the three cases of R181. -/
theorem timerOutputLevel : Obligations.TimerOutputLevel :=
  fun _ => ⟨timerOut_low, timerOut_resetSet, timerOut_undef⟩

end Sys2Proof.Machine
end

section
/-! SUPPORT. The fetch of a legal word, and POLL and DIVU where their operands are mapped and written. -/

namespace Sys2Proof.Machine

/-! ## The fetched instruction (R200) -/

theorem fetch_decoded {s : State} {w : InstrWord} {i : Instr} (hw : s.prog[s.dseq.pc]? = some w) (hi : decode w = .ok i) :
    fetch s = .ok i := by
  simp [fetch, hw, hi]

theorem dseqStep_of_fetch_ok {s : State} {i : Instr} (h : fetch s = .ok i) : dseqStep s = exec i s := by
  simp [dseqStep, h]

/-! ## The instructions (R201, R202) -/

/-- The quotient of a written source by an admitted divisor, in the destination (R201). -/
theorem exec_divu_written {src : VReg} {d x : Word} {s : State} (dst : VReg) (hd : d ≠ 0) (hx : s.readV src = some x) :
    exec (.divu dst src d) s = .next (s.writeV dst (x / d)).advance := by
  rw [exec, execDivu, if_neg hd, withSource_written hx, writeDest]

/-- POLL of a register: the read's effect, and the next pc exactly if a masked bit is set (R202). -/
theorem exec_poll_off (r : Reg) (mask : Word) (s : State) :
    exec (.poll r.off mask) s =
      .next (if stored r s &&& mask = 0 then readEffect r s else (readEffect r s).advance) := by
  simp [exec, execPoll, regRead]

end Sys2Proof.Machine
end

section
/-! PROOFS. The obligations on control: the step of the decoded instruction, and DIVU, POLL, JMP and HALT. -/

namespace Sys2Proof.Machine

/-- Settles O12: a masked bit decides whether pc advances, and the read's effect is in IFG0 only. -/
theorem pollFallsThroughOnAMaskedBit : Obligations.PollFallsThroughOnAMaskedBit := by
  intro s r mask
  rw [exec_poll_off, readEffect_eq]
  by_cases hbit : stored r s &&& mask = 0
  · rw [if_pos hbit, if_pos hbit]
    rfl
  · rw [if_neg hbit, if_neg hbit]
    rfl

/-- Settles O6: the step is the DSEQ's, and its fetch finds the decoded word. -/
theorem stepRunsTheDecodedInstruction : Obligations.StepRunsTheDecodedInstruction := by
  intro s w i hrun hsched hw hi
  have hfetch : fetch (takeEvent s) = .ok i := (fetch_takeEvent s).trans (fetch_decoded hw hi)
  rw [step_eq_dseqStep hrun (nextEvent_eq_dseq hsched), dseqStep_of_fetch_ok hfetch]
  rfl

/-- Settles O34: division of words is the floor of the quotient of their values. -/
theorem divuWritesTheQuotient : Obligations.DivuWritesTheQuotient := by
  intro s dst src d x hd hx
  rw [exec_divu_written dst hd hx, BitVec.udiv_def]
  rfl

/-- Settles O36: after the JMP the target is pc, so a target past the program is a fault of the next fetch. -/
theorem jmpSetsPc : Obligations.JmpSetsPc := by
  intro s target
  refine ⟨rfl, fun t hrun hsched hlen ht => ?_⟩
  obtain rfl : s.setPc target.toNat = t := Host.Outcome.next.inj ht
  obtain ⟨hrange, -⟩ := fetchFaultsAreRecorded (s.setPc target.toNat) hrun (.inl hsched)
  rw [hrange hlen]
  simp [State.setPc, hsched]

/-- Settles O37: the DSEQ is enabled only while Running; the rules of the three other agents admit a Halted machine. -/
theorem haltStopsTheDriver : Obligations.HaltStopsTheDriver := by
  refine ⟨fun _ => rfl, fun s hhalt => ⟨?_, fun hp => ?_, fun hmc => ?_, fun hhold d => ?_⟩⟩
  · rintro t ⟨hen, -⟩
    simp [Event.enabled, hhalt] at hen
  · exact ⟨0, _, (completeStep s _ 0).2 ⟨.inr hhalt, hp, fun _ => Nat.zero_le _, rfl⟩⟩
  · exact ⟨_, (tickStep s _).2 ⟨.inr hhalt, hmc, rfl⟩⟩
  · exact ⟨_, (watchdogStep.1 s _ d).2 ⟨.inr hhalt, hhold, rfl⟩⟩

end Sys2Proof.Machine
end

section
/-! SUPPORT. SYS_CTL under its write and under any instruction (R234), which instructions raise (R220), and a tick and a
completion in either order (R225). -/

namespace Sys2Proof.Machine

/-! ## The bring-up controls (R234) -/

/-- The rule of SYS_CTL, its two one-way checks joined: they refuse with the same code. -/
theorem exec_of_writes_sysCtl {i : Instr} {x : Word} {s : State} (hw : Writes i .sysCtl x s) (hx : Fits .sysCtl x) :
    exec i s = .next (
      if s.sys.wdtHold = true ∧ x.getLsbD 0 = false ∨ s.sys.pinLock = false ∧ x.getLsbD 1 = true then
        s.raiseRefuse (.sysRelock s.dseq.pc x)
      else (s.written x .sysCtl).advance) := by
  refine exec_of_writes_ite hw rfl hx (fun hc => ?_) fun hc => ?_
  · rw [writeReg, writeSysCtl]
    obtain ⟨hhold, hclear⟩ | ⟨hfree, hset⟩ := hc
    · rw [hhold, hclear]
      rfl
    · rw [hfree, hset]
      exact ite_self _
  · simpa [Admits] using hc

/-- No instruction clears a set hold or sets a cleared lock. -/
theorem exec_keeps_hold_and_release {i : Instr} {s t : State} (h : exec i s = .next t) :
    (s.sys.wdtHold = true → t.sys.wdtHold = true) ∧ (s.sys.pinLock = false → t.sys.pinLock = false) := by
  obtain hsys | ⟨r, x, s', -, hu, hwr, rfl⟩ := exec_sys h
  · rw [hsys]
    exact ⟨id, id⟩
  · exact (writeSys_frame hu hwr).2

/-! ## What raises (R220) -/

/-- An instruction that stops a Running machine otherwise than by a HALT has raised: what completes keeps the status or
halts. -/
theorem exec_raises_of_not_live {i : Instr} {s t : State} (hrun : s.dseq.status = .running) (h : exec i s = .next t)
    (ht : ¬ t.dseq.status.live = true) : (∃ f, t = s.raiseFault f) ∨ ∃ e, t = s.raiseRefuse e := by
  obtain hf | he | ⟨-, hst⟩ := exec_raises_or_completes h
  · exact .inl hf
  · exact .inr he
  · rw [hst, hrun] at ht
    split at ht <;> exact absurd rfl ht

/-! ## A tick and a completion (R225) -/

/-- A tick leaves the conversion unit, so the completion after it is enabled as before (R150, R178). -/
theorem tick_then_complete_iff {s b : State} {r : Word} :
    (∃ a, Transition s .tick a ∧ Transition a (.complete r) b) ↔
      Event.enabled s .tick = true ∧ Event.enabled s (.complete r) = true ∧
        b = (s.setPulse s.pulse.tick).finishConversion r := by
  constructor
  · rintro ⟨a, ⟨htick, ha⟩, hcomplete, hb⟩
    obtain rfl := Host.Outcome.next.inj ha
    exact ⟨htick, hcomplete, (Host.Outcome.next.inj hb).symm⟩
  · rintro ⟨htick, hcomplete, rfl⟩
    exact ⟨s.setPulse s.pulse.tick, ⟨htick, rfl⟩, hcomplete, rfl⟩

/-- A completion leaves the pulse unit, so the tick after it is enabled and counts as before (R150, R178). -/
theorem complete_then_tick_iff {s b : State} {r : Word} :
    (∃ a, Transition s (.complete r) a ∧ Transition a .tick b) ↔
      Event.enabled s .tick = true ∧ Event.enabled s (.complete r) = true ∧
        b = (s.setPulse s.pulse.tick).finishConversion r := by
  constructor
  · rintro ⟨a, ⟨hcomplete, ha⟩, htick, hb⟩
    obtain rfl := Host.Outcome.next.inj ha
    exact ⟨htick, hcomplete, (Host.Outcome.next.inj hb).symm⟩
  · rintro ⟨htick, hcomplete, rfl⟩
    exact ⟨s.finishConversion r, ⟨hcomplete, rfl⟩, htick, rfl⟩

end Sys2Proof.Machine
end

section
/-! PROOFS. The obligations on exceptions and bring-up: the write rule of SYS_CTL, what a raise changes, the held watchdog, and
a tick beside a completion. -/

namespace Sys2Proof.Machine

/-- Settles O33: the two one-way checks are the only ones of the register's own rule. -/
theorem sysCtlWriteRule : Obligations.SysCtlWriteRule :=
  fun _ _ _ hw hx => exec_of_writes_sysCtl hw hx

/-- Settles O39: only a raise leaves such a status, and a raise sets nothing but the status. -/
theorem raisingChangesOnlyTheStatus : Obligations.RaisingChangesOnlyTheStatus := by
  intro s t i hrun h hnr hnh
  have ht : ¬ t.dseq.status.live = true := fun hl => ((Status.live_iff _).1 hl).elim hnr hnh
  obtain ⟨f, rfl⟩ | ⟨e, rfl⟩ := exec_raises_of_not_live hrun h ht
  · rfl
  · rfl

/-- Settles O52: the hold disables the watchdog's step, and of the other steps only an instruction can change the system
unit. -/
theorem bringUpIsOneWay : Obligations.BringUpIsOneWay := by
  intro s t e h hhold
  obtain ⟨rfl, ⟨f, -, rfl⟩ | ⟨i, -, hx⟩⟩ | ⟨r, rfl, rfl⟩ | ⟨rfl, rfl⟩ | ⟨d, rfl, -⟩ := transition_cases h
  · exact ⟨hhold, nofun, id⟩
  · obtain ⟨hkeep, hrelease⟩ := exec_keeps_hold_and_release hx
    exact ⟨hkeep hhold, nofun, hrelease⟩
  · exact ⟨hhold, nofun, id⟩
  · exact ⟨hhold, nofun, id⟩
  · obtain ⟨-, hfree, -⟩ := (watchdogStep.1 s t d).1 h
    exact absurd hhold (by simp [hfree])

/-- Settles O46: both orders need the same two enabled steps and end in the same state. -/
theorem tickAndCompleteCommute : Obligations.TickAndCompleteCommute :=
  fun _ a _ _ => ⟨fun ha hb => complete_then_tick_iff.2 (tick_then_complete_iff.1 ⟨a, ha, hb⟩),
    fun ha hb => tick_then_complete_iff.2 (complete_then_tick_iff.1 ⟨a, ha, hb⟩)⟩

end Sys2Proof.Machine
end
